-- ==== Sys2Proof/Word.lean ====
section
/-!
DEFINITION. The word types of the block's fields, operands and ports (R12, R16, R20, R70). Bit 0 is the least
significant bit of every one of them (R16). The arithmetic over them is in Machine/Operands.lean.
-/

namespace Sys2Proof

/-- The sampled level of one line (R71, R72). -/
abbrev Level := BitVec 1

/-- The level pair (line A, line B), line A in bit 1 (R16, R23). -/
abbrev LevelPair := BitVec 2

/-- The key of a transition: the new level pair in bits 3:2, the previous one in bits 1:0 (R101). -/
abbrev Key := BitVec 4

/-- A 16-bit operand: a pulse width, a percentage, an angle or a largest angle (R12, R77). -/
abbrev Word16 := BitVec 16

/-- A 32-bit operand or the `data` of a response (R12, R75, R77). -/
abbrev Word32 := BitVec 32

/-- A lane Q word (R71). -/
abbrev LaneQWord := BitVec 3

/-- A lane S word (R72). -/
abbrev LaneSWord := BitVec 2

/-- A port H word (R73). -/
abbrev HostWord := BitVec 1

/-- A port C command word (R74). -/
abbrev CommandWord := BitVec 40

/-- A port C response word (R75). -/
abbrev ResponseWord := BitVec 36

end Sys2Proof
end

