-- ==== Sys2Proof/Config.lean ====
section
/-!
DEFINITION. The implementation parameters (R9 to R15) and the values the spec leaves open. A configuration is not state:
no operation changes it (R9). `Config` is every well-formed configuration with the two fixed widths of this hardware;
`Config.hardware` is the configuration of this hardware.
-/

namespace Sys2Proof

/-- `DUTY_BITS`, 13 for this hardware (R9). -/
abbrev Config.dutyBits : Nat := 13

/-- `ACC_W`, 32 for this hardware (R11). -/
abbrev Config.accW : Nat := 32

/-- `DUTY_MAX = 2^DUTY_BITS - 1` (R9). -/
def Config.dutyMax : Nat := 2 ^ Config.dutyBits - 1

/-- A configuration is well formed when these three bounds hold (R15). -/
def Config.admissible (dutyBits freqHz accW : Nat) : Bool :=
  decide (1 ≤ dutyBits ∧ dutyBits ≤ 16) && decide (1 ≤ freqHz ∧ freqHz ≤ 1000000) && decide (4 ≤ accW)

/-- A well-formed configuration (R9 to R15). One that is not well formed cannot be built: R15 refuses it at
instantiation. `DUTY_BITS` and `ACC_W` stand above as the widths of this hardware. -/
structure Config where
  /-- `FREQ_HZ`, OPEN (R10) -/
  freqHz : Nat
  /-- `PENDING_ON_NOCHANGE`: an `EDGE` that finds no level change sets `pending` (R13) -/
  pendingOnNochange : Bool
  /-- `PENDING_ON_BUTTON`: a `BTN` sets `pending` (R13) -/
  pendingOnButton : Bool
  /-- `HAS_ANGLE`: the angle operations exist (R14) -/
  hasAngle : Bool
  /-- `HAS_INVERSE`: the inverse operations exist (R14) -/
  hasInverse : Bool
  /-- R15 -/
  wellFormed : Config.admissible Config.dutyBits freqHz Config.accW = true
  deriving DecidableEq, Repr

/-- `PERIOD_US = floor(1_000_000 / FREQ_HZ)` (R10). -/
def Config.periodUs (c : Config) : Nat := 1000000 / c.freqHz

/-- `FREQ_HZ - 1` of this hardware. The spec gives `FREQ_HZ` no value (R10, OPEN), so it has no body here.
DESIGN CHOICE, safe: log 4. -/
opaque Config.freqIndex : Fin 1000000

/-- What `x div y` is for a negative `x` or a `y` that is not positive. R17 leaves it undefined and no rule applies
`div` there, but for a state before the first `RESET` that breaks R30 (R221). A free value. DESIGN CHOICE, safe: log 7. -/
opaque Config.openQuotient : Int → Int → Int

/-- The configuration of this hardware: the values of R13 and R14 and the open `FREQ_HZ` of R10. -/
def Config.hardware : Config where
  freqHz := Config.freqIndex.val + 1
  pendingOnNochange := false
  pendingOnButton := false
  hasAngle := true
  hasInverse := true
  wellFormed := by simp [Config.admissible, Config.dutyBits, Config.accW]

end Sys2Proof
end

