-- ==== Sys2Proof/Syntax.lean ====
section
/-!
DEFINITION. The agents, the ports and the fifteen operations (R2, R8, R70, R76).
-/

namespace Sys2Proof

/-- The three agents (R8). -/
inductive Agent where
  /-- P, the interrupt context -/
  | producer
  /-- C, the loop context -/
  | consumer
  /-- the host, which issues `RESET` -/
  | host
  deriving DecidableEq, Repr

/-- The operations: one constructor for each row of spec/opcode_table.json, its operands as the ports carry them
(R2, R77, R100, R110). -/
inductive Instr where
  /-- `EDGE a, b` (R100) -/
  | edge (a b : Level)
  /-- `BTN sw` (R110) -/
  | btn (sw : Level)
  /-- `RESET` (R220) -/
  | reset
  /-- `HASPENDING` (R121) -/
  | haspending
  /-- `TAKE` (R124) -/
  | take
  /-- `ISPRESSED` (R127) -/
  | ispressed
  /-- `ACK` (R130) -/
  | ack
  /-- `PW2DUTY us` (R142) -/
  | pw2duty (us : Word16)
  /-- `PCT2PW p` (R146) -/
  | pct2pw (p : Word16)
  /-- `ANG2PW angle, angleMax` (R149) -/
  | ang2pw (angle angleMax : Word16)
  /-- `SETBOUNDS minUs, maxUs` (R152) -/
  | setbounds (minUs maxUs : Word16)
  /-- `WRDUTY duty` (R156) -/
  | wrduty (duty : Word32)
  /-- `PW2PCT us` (R172) -/
  | pw2pct (us : Word16)
  /-- `PW2ANG us, angleMax` (R175) -/
  | pw2ang (us angleMax : Word16)
  /-- `DUTY2PW duty` (R178) -/
  | duty2pw (duty : Word32)
  deriving DecidableEq, Repr

/-- The four formats of a command word (R74). -/
inductive Format where
  /-- no operand -/
  | n
  /-- one 16-bit operand in field `a` -/
  | a
  /-- two 16-bit operands in the fields `a` and `b` -/
  | ab
  /-- one 32-bit operand in the fields `b` and `a` -/
  | w
  deriving DecidableEq, Repr

/-- The twelve commands of the opcode map of port C (R76). -/
inductive Opcode where
  | haspending | take | ispressed | ack
  | pw2duty | pct2pw | ang2pw | setbounds | wrduty
  | pw2pct | pw2ang | duty2pw
  deriving DecidableEq, Repr

/-- A word presented at a port: lane Q or lane S of port P, port C, or port H (R70). A port carries only its own kind
of word (R198). -/
inductive PortWord where
  /-- lane Q of port P (R71) -/
  | laneQ (w : LaneQWord)
  /-- lane S of port P (R72) -/
  | laneS (w : LaneSWord)
  /-- port C (R74) -/
  | portC (w : CommandWord)
  /-- port H (R73) -/
  | portH (w : HostWord)
  deriving DecidableEq, Repr

/-- The agent that issues an operation (R8). -/
def Instr.agent : Instr → Agent
  | .edge _ _ => .producer
  | .btn _ => .producer
  | .reset => .host
  | .haspending => .consumer
  | .take => .consumer
  | .ispressed => .consumer
  | .ack => .consumer
  | .pw2duty _ => .consumer
  | .pct2pw _ => .consumer
  | .ang2pw _ _ => .consumer
  | .setbounds _ _ => .consumer
  | .wrduty _ => .consumer
  | .pw2pct _ => .consumer
  | .pw2ang _ _ => .consumer
  | .duty2pw _ => .consumer

/-- The agent whose port a word is presented at (R70). -/
def PortWord.agent : PortWord → Agent
  | .laneQ _ => .producer
  | .laneS _ => .producer
  | .portC _ => .consumer
  | .portH _ => .host

end Sys2Proof
end

