-- ==== Sys2Proof/Machine/State.lean ====
section
/-!
DEFINITION. The state record of R20, the words at the ports around it, and the machine right after reset (R36).
-/

namespace Sys2Proof.Machine

/-- The five error causes (R192). -/
inductive Err where
  /-- `ERR_RESERVED`: a reserved command word (R79) -/
  | reserved
  /-- `ERR_BOUNDS`: `minUs ≥ maxUs` given to `SETBOUNDS` -/
  | bounds
  /-- `ERR_ANGLEMAX`: `angleMax = 0` given to `ANG2PW` or `PW2ANG` -/
  | angleMax
  /-- `ERR_NOBOUNDS`: a command that reads the bounds while `boundsValid = 0` -/
  | noBounds
  /-- `ERR_DUTYRANGE`: `duty > DUTY_MAX` given to `WRDUTY` or `DUTY2PW` -/
  | dutyRange
  deriving DecidableEq, Repr

/-- The status of a response: the six values that are ever produced (R75, R192, U21). -/
inductive Status where
  /-- `OK` -/
  | ok
  /-- an error response -/
  | err (e : Err)
  deriving DecidableEq, Repr

/-- A response on port C (R75). -/
structure Response where
  /-- `st`, bits 35:32 of the word -/
  st : Status
  /-- `data`, bits 31:0 of the word -/
  data : Word32
  deriving DecidableEq, Repr

/-- Why the machine would stop with a fault. There is no such reason: an error is a response, and every operation ends
in a next state (R190, R191, R194, R235). -/
inductive Fault where
  deriving DecidableEq, Repr

/-- Why the model would have no meaning for an operation. -/
inductive Refusal where
  /-- An operation without a meaning, raised by `exec` alone. No arm of `exec` raises it: every operation has its
  meaning. Safe: the model would stop where the hardware goes on. -/
  | notModelled (mnemonic : String)
  deriving DecidableEq, Repr

/-- The state. The eight fields `prev` to `dutyOut` are the spec's record S, which has no other field (R20). `cfg`,
`presented` and `responses` are the model's: the configuration, which no operation changes (R9; log 3), and the words
at the ports (R70; log 1, log 2). -/
structure State where
  /-- the configuration (R9 to R15) -/
  cfg : Config
  /-- the last processed level pair (R23) -/
  prev : LevelPair
  /-- the rotation accumulator, two's complement (R24) -/
  acc : BitVec Config.accW
  /-- the switch was low at the last `BTN` (R25) -/
  pressed : Bool
  /-- new data since the last acknowledgment (R26) -/
  pending : Bool
  /-- the lower bound of the pulse width in microseconds (R28) -/
  minUs : Word16
  /-- the upper bound of the pulse width in microseconds (R28) -/
  maxUs : Word16
  /-- a `SETBOUNDS` has succeeded since the last `RESET` (R29) -/
  boundsValid : Bool
  /-- the duty the PWM peripheral reads (R31) -/
  dutyOut : BitVec Config.dutyBits
  /-- the words the agents present, in the order of the run, the next one first (R56, R70) -/
  presented : List PortWord
  /-- the responses sent on port C, the newest first (R70, R75) -/
  responses : List Response
  deriving DecidableEq, Repr

/-- Right after reset: every field of S at the value of R36, nothing presented, no response sent. -/
def State.reset : State where
  cfg := Config.hardware
  prev := 0
  acc := 0
  pressed := false
  pending := false
  minUs := 0
  maxUs := 0
  boundsValid := false
  dutyOut := 0
  presented := []
  responses := []

end Sys2Proof.Machine
end

