-- ==== Sys2Proof/Machine/Flags.lean ====
section
/-!
DEFINITION. The three one-bit flags (R32). No operation sets a flag as a side effect of arithmetic.
-/

namespace Sys2Proof.Machine

/-- Set `pending` when the condition `on` holds, otherwise leave it (R26, R104, R111). -/
def State.notePending (s : State) (on : Bool) : State := { s with pending := s.pending || on }

/-- Clear `pending` (R26, R130). -/
def State.clearPending (s : State) : State := { s with pending := false }

/-- Store the sample of the switch line, which is active low (R25, R111). -/
def State.samplePressed (s : State) (sw : Level) : State := { s with pressed := decide (sw = 0) }

end Sys2Proof.Machine
end

