-- ==== Sys2Proof/Machine/Operands.lean ====
section
/-!
DEFINITION. Operands and arithmetic: how a field of a word is read (R77), how a result is assembled (R78), and the
primitives of R16 and R17. All arithmetic is over the integers, exact, with one floor division last (R140, R141).
-/

namespace Sys2Proof.Machine

/-- `zext_N(b)`: a bit pattern as an unsigned integer (R17). -/
def zext {n : Nat} (b : BitVec n) : Int := (b.toNat : Int)

/-- `sext_N(b)`: a bit pattern as a two's-complement signed integer (R17). -/
def sext {n : Nat} (b : BitVec n) : Int := b.toInt

/-- `enc_N(v)`: the N-bit pattern of `v mod 2^N` (R17). Read as a signed integer it is `wrapS_N(v)`. -/
def enc (n : Nat) (v : Int) : BitVec n := BitVec.ofInt n v

/-- `clamp(v, lo, hi)` (R17). -/
def clamp (v lo hi : Int) : Int := if v < lo then lo else if hi < v then hi else v

/-- `x div y`: the floor of the quotient for `x ≥ 0` and `y > 0` (R17). For other operands R17 gives no value and
applies it nowhere; there it is a free value (log 7). -/
def quot (x y : Int) : Int := if 0 ≤ x ∧ 0 < y then x / y else Config.openQuotient x y

/-- The level pair of two sampled levels: line A in bit 1, line B in bit 0 (R16, R100). -/
def levelPair (a b : Level) : LevelPair := a ++ b

/-- A Boolean result, 0 or 1 (R78). -/
def boolResult (b : Bool) : Int := if b then 1 else 0

end Sys2Proof.Machine
end

