-- ==== Sys2Proof/Machine/Ops.lean ====
section
/-!
DEFINITION. The shared operations: responses and error responses (R75, R190 to R193), the transition table and the
accumulator (R24, R101 to R105), the bounds (R28, R29), the two shapes of conversion between a pulse width and a
fraction (R146, R149, R172, R175), the duty output (R31) and the reset of the record (R36).
-/

namespace Sys2Proof.Machine

/-- How an operation of the block ends. -/
abbrev Result := Host.Outcome State Fault Refusal

/-! ### Responses -/

/-- The code of an error (R192). -/
def errCode : Err → BitVec 4
  | .reserved => 1
  | .bounds => 2
  | .angleMax => 3
  | .noBounds => 4
  | .dutyRange => 5

/-- The status field `st` of a response word (R75, R192). -/
def statusCode : Status → BitVec 4
  | .ok => 0
  | .err e => errCode e

/-- The 36-bit response word: `st` in bits 35:32, `data` in bits 31:0 (R75). -/
def responseWord (r : Response) : ResponseWord := statusCode r.st ++ r.data

/-- Send a response on port C, one for each command (R70). -/
def State.respond (s : State) (r : Response) : State := { s with responses := r :: s.responses }

/-- End a command with a result (R75, R78). -/
def succeed (v : Int) (s : State) : Result := .next (s.respond ⟨.ok, enc 32 v⟩)

/-- `raise Err(code)`: the command ends, no field of S is written, the response carries the code and `data = 0`, and
nothing is latched (R191). This is the block's only exception; it needs no return operation. -/
def raise (e : Err) (s : State) : Result := .next (s.respond ⟨.err e, 0⟩)

/-! ### The quadrature decoder -/

/-- The key of a transition: `prev | (new << 2)` (R101). -/
def transitionKey (prev new : LevelPair) : Key := new ++ prev

/-- The transition table `T`, one entry for each key from 0 to 15 (R102). -/
def transitionTable : List Int := [0, 1, -1, 2, -1, 0, -2, 1, 1, -2, 0, -1, 2, -1, 1, 0]

/-- `T[key]` (R102). -/
def delta (k : Key) : Int := transitionTable.getD k.toNat 0

/-- Add a delta to the accumulator, wrapping at its width: `wrapS_ACC_W(acc + d)` (R24, R104). -/
def accumulate (acc : BitVec Config.accW) (d : Int) : BitVec Config.accW := enc Config.accW (sext acc + d)

/-- A classified transition to the level pair `new` (R104, the `else` branch). -/
def State.classify (s : State) (new : LevelPair) : State :=
  { s with acc := accumulate s.acc (delta (transitionKey s.prev new)), prev := new, pending := true }

/-- The accumulator is zeroed (R124). -/
def State.zeroAcc (s : State) : State := { s with acc := 0 }

/-! ### The converter -/

/-- New bounds, written together (R28, R152). -/
def State.setBounds (s : State) (minUs maxUs : Word16) : State :=
  { s with minUs := minUs, maxUs := maxUs, boundsValid := true }

/-- A new duty output (R31, R156). -/
def State.setDuty (s : State) (duty : BitVec Config.dutyBits) : State := { s with dutyOut := duty }

/-- Run a command that reads the bounds, or raise `ERR_NOBOUNDS` while there are none (R29). -/
def withBounds (s : State) (v : Int) : Result := if s.boundsValid then succeed v s else raise .noBounds s

/-- The pulse width at the fraction `c / whole` of the bounds: `minUs + ((maxUs - minUs) * c) div whole` (R146, R149). -/
def fractionToPulseWidth (s : State) (c whole : Int) : Int :=
  zext s.minUs + quot ((zext s.maxUs - zext s.minUs) * c) whole

/-- The fraction of `whole` at the pulse width `us`, clamped to the bounds:
`((c - minUs) * whole) div (maxUs - minUs)` (R172, R175). -/
def pulseWidthToFraction (s : State) (us whole : Int) : Int :=
  quot ((clamp us (zext s.minUs) (zext s.maxUs) - zext s.minUs) * whole) (zext s.maxUs - zext s.minUs)

/-- The duty of a pulse width: `(us * DUTY_MAX) div PERIOD_US`, not clamped (R142, R143). -/
def pulseWidthToDuty (dutyMax periodUs : Nat) (us : Int) : Int := quot (us * dutyMax) periodUs

/-- The pulse width of a duty: `(duty * PERIOD_US) div DUTY_MAX` (R178). -/
def dutyToPulseWidth (dutyMax periodUs : Nat) (duty : Int) : Int := quot (duty * periodUs) dutyMax

/-! ### Reset -/

/-- Every field of S at its reset value (R36, R220). -/
def State.clearRecord (s : State) : State :=
  { s with
    prev := 0, acc := 0, pressed := false, pending := false
    minUs := 0, maxUs := 0, boundsValid := false, dutyOut := 0 }

end Sys2Proof.Machine
end

