-- ==== Sys2Proof/Machine/Consumer.lean ====
section
/-!
DEFINITION. The consumer's commands to the decoder (R120 to R133).
-/

namespace Sys2Proof.Machine

/-- `HASPENDING`: the stored flag, not a test of `acc` (R121, R122). -/
def execHaspending (s : State) : Result := succeed (boolResult s.pending) s

/-- `TAKE`: the accumulator is returned and zeroed in one step; `pending` stays (R124). -/
def execTake (s : State) : Result := succeed (sext s.acc) s.zeroAcc

/-- `ISPRESSED`: the stored sample (R127). -/
def execIspressed (s : State) : Result := succeed (boolResult s.pressed) s

/-- `ACK`: `pending` is cleared; `acc` stays (R130). -/
def execAck (s : State) : Result := succeed 0 s.clearPending

end Sys2Proof.Machine
end

