-- ==== Sys2Proof/Machine/Forward.lean ====
section
/-!
DEFINITION. The converter's forward commands, the bounds update and the duty write (R140 to R157).
-/

namespace Sys2Proof.Machine

/-- `PW2DUTY us` (R142). It reads no field of S. -/
def execPw2duty (us : Word16) (s : State) : Result :=
  succeed (pulseWidthToDuty Config.dutyMax s.cfg.periodUs (zext us)) s

/-- `PCT2PW p` (R146). -/
def execPct2pw (p : Word16) (s : State) : Result :=
  withBounds s (fractionToPulseWidth s (clamp (sext p) 0 100) 100)

/-- `ANG2PW angle, angleMax` (R149): `ERR_ANGLEMAX` comes before `ERR_NOBOUNDS` (R193). -/
def execAng2pw (angle angleMax : Word16) (s : State) : Result :=
  if angleMax = 0 then raise .angleMax s
  else withBounds s (fractionToPulseWidth s (clamp (sext angle) 0 (zext angleMax)) (zext angleMax))

/-- `SETBOUNDS minUs, maxUs` (R152). -/
def execSetbounds (minUs maxUs : Word16) (s : State) : Result :=
  if zext maxUs ≤ zext minUs then raise .bounds s else succeed 0 (s.setBounds minUs maxUs)

/-- `WRDUTY duty` (R156). -/
def execWrduty (duty : Word32) (s : State) : Result :=
  if (Config.dutyMax : Int) < zext duty then raise .dutyRange s
  else succeed 0 (s.setDuty (enc Config.dutyBits (zext duty)))

end Sys2Proof.Machine
end

