-- ==== Sys2Proof/Machine/HostPort.lean ====
section
/-!
DEFINITION. The host's operation (R220).
-/

namespace Sys2Proof.Machine

/-- `RESET`: the record takes its reset values in one step; the configuration is not changed and no response is
produced (R220). -/
def execReset (s : State) : Result := .next s.clearRecord

end Sys2Proof.Machine
end

