-- ==== Sys2Proof/Machine/Inverse.lean ====
section
/-!
DEFINITION. The converter's inverse commands, which change no state (R170 to R179).
-/

namespace Sys2Proof.Machine

/-- `PW2PCT us` (R172). -/
def execPw2pct (us : Word16) (s : State) : Result := withBounds s (pulseWidthToFraction s (zext us) 100)

/-- `PW2ANG us, angleMax` (R175): `ERR_ANGLEMAX` comes before `ERR_NOBOUNDS` (R193). -/
def execPw2ang (us angleMax : Word16) (s : State) : Result :=
  if angleMax = 0 then raise .angleMax s
  else withBounds s (pulseWidthToFraction s (zext us) (zext angleMax))

/-- `DUTY2PW duty` (R178). It reads no field of S. -/
def execDuty2pw (duty : Word32) (s : State) : Result :=
  if (Config.dutyMax : Int) < zext duty then raise .dutyRange s
  else succeed (dutyToPulseWidth Config.dutyMax s.cfg.periodUs (zext duty)) s

end Sys2Proof.Machine
end

