-- ==== Sys2Proof/Machine/Producer.lean ====
section
/-!
DEFINITION. The producer's events, which cannot fail and have no response (R100 to R111).
-/

namespace Sys2Proof.Machine

/-- `EDGE a, b` (R104): an equal level pair is ignored, up to `PENDING_ON_NOCHANGE`; another one is classified. -/
def execEdge (a b : Level) (s : State) : Result :=
  if levelPair a b = s.prev then .next (s.notePending s.cfg.pendingOnNochange)
  else .next (s.classify (levelPair a b))

/-- `BTN sw` (R111). -/
def execBtn (sw : Level) (s : State) : Result := .next ((s.samplePressed sw).notePending s.cfg.pendingOnButton)

end Sys2Proof.Machine
end

