-- ==== Sys2Proof/Machine/Dispatch.lean ====
section
/-! DEFINITION. The meaning of each operation: one arm for each row of the opcode table. -/

namespace Sys2Proof.Machine

def exec (i : Instr) (s : State) : Host.Outcome State Fault Refusal :=
  match i with
  | .edge a b => Sys2Proof.Machine.execEdge a b s
  | .btn sw => Sys2Proof.Machine.execBtn sw s
  | .reset => Sys2Proof.Machine.execReset s
  | .haspending => Sys2Proof.Machine.execHaspending s
  | .take => Sys2Proof.Machine.execTake s
  | .ispressed => Sys2Proof.Machine.execIspressed s
  | .ack => Sys2Proof.Machine.execAck s
  | .pw2duty us => Sys2Proof.Machine.execPw2duty us s
  | .pct2pw p => Sys2Proof.Machine.execPct2pw p s
  | .ang2pw angle angleMax => Sys2Proof.Machine.execAng2pw angle angleMax s
  | .setbounds minUs maxUs => Sys2Proof.Machine.execSetbounds minUs maxUs s
  | .wrduty duty => Sys2Proof.Machine.execWrduty duty s
  | .pw2pct us => Sys2Proof.Machine.execPw2pct us s
  | .pw2ang us angleMax => Sys2Proof.Machine.execPw2ang us angleMax s
  | .duty2pw duty => Sys2Proof.Machine.execDuty2pw duty s

end Sys2Proof.Machine
end

