-- ==== Sys2Proof/WellFormed.lean ====
section
/-!
DEFINITION. Which operations a configuration has (R14). Operand ranges need no check: an operand outside its field
cannot be written as an `Instr`. The well-formedness of a configuration (R15) is `Config.admissible`.
-/

namespace Sys2Proof

/-- The operation exists in the configuration: `ANG2PW` and `PW2ANG` need `HAS_ANGLE`; `PW2PCT`, `PW2ANG` and `DUTY2PW`
need `HAS_INVERSE` (R14). -/
def Instr.wellFormed (c : Config) : Instr → Bool
  | .edge _ _ => true
  | .btn _ => true
  | .reset => true
  | .haspending => true
  | .take => true
  | .ispressed => true
  | .ack => true
  | .pw2duty _ => true
  | .pct2pw _ => true
  | .ang2pw _ _ => c.hasAngle
  | .setbounds _ _ => true
  | .wrduty _ => true
  | .pw2pct _ => c.hasInverse
  | .pw2ang _ _ => c.hasAngle && c.hasInverse
  | .duty2pw _ => c.hasInverse

end Sys2Proof
end

