-- ==== Sys2Proof/Decode.lean ====
section
/-!
DEFINITION. From port words to operations and back (R71 to R81). Decoding is total: a word is an operation, no event
(R80), or reserved for a named reason (R79). The encoder follows the same tables (R82).
-/

namespace Sys2Proof

/-- Why a command word is reserved: the clauses (a) to (e) of R79. -/
inductive Reserved where
  /-- (a) `opc` is not in the opcode map -/
  | unknownOpcode
  /-- (b) format N with a nonzero operand field -/
  | operandBitsNonzero
  /-- (c) format A with a nonzero field `b` -/
  | fieldBNonzero
  /-- (d) an angle command without `HAS_ANGLE` -/
  | angleAbsent
  /-- (e) an inverse command without `HAS_INVERSE` -/
  | inverseAbsent
  deriving DecidableEq, Repr

/-- What a presented word is. -/
inductive Decoded where
  /-- an operation -/
  | op (i : Instr)
  /-- no event: no operation, whatever the level bits (R80) -/
  | noEvent
  /-- a reserved command word (R79) -/
  | reserved (why : Reserved)
  deriving DecidableEq, Repr

/-! ### The opcode map (R76) -/

/-- The opcode value of a command. -/
def Opcode.bits : Opcode → BitVec 8
  | .haspending => 0x01#8
  | .take => 0x02#8
  | .ispressed => 0x03#8
  | .ack => 0x04#8
  | .pw2duty => 0x10#8
  | .pct2pw => 0x11#8
  | .ang2pw => 0x12#8
  | .setbounds => 0x13#8
  | .wrduty => 0x14#8
  | .pw2pct => 0x18#8
  | .pw2ang => 0x19#8
  | .duty2pw => 0x1A#8

/-- The command an opcode value stands for; every other value is reserved. -/
def Opcode.ofBits (o : BitVec 8) : Option Opcode :=
  match o.toNat with
  | 0x01 => some .haspending
  | 0x02 => some .take
  | 0x03 => some .ispressed
  | 0x04 => some .ack
  | 0x10 => some .pw2duty
  | 0x11 => some .pct2pw
  | 0x12 => some .ang2pw
  | 0x13 => some .setbounds
  | 0x14 => some .wrduty
  | 0x18 => some .pw2pct
  | 0x19 => some .pw2ang
  | 0x1A => some .duty2pw
  | _ => none

/-- The format of a command, a function of its opcode alone (R74, R76). -/
def Opcode.format : Opcode → Format
  | .haspending | .take | .ispressed | .ack => .n
  | .pw2duty | .pct2pw | .pw2pct => .a
  | .ang2pw | .setbounds | .pw2ang => .ab
  | .wrduty | .duty2pw => .w

/-- The command needs `HAS_ANGLE` (R14, R79 (d)). -/
def Opcode.needsAngle : Opcode → Bool
  | .ang2pw | .pw2ang => true
  | .haspending | .take | .ispressed | .ack | .pw2duty | .pct2pw | .setbounds | .wrduty | .pw2pct | .duty2pw => false

/-- The command needs `HAS_INVERSE` (R14, R79 (e)). -/
def Opcode.needsInverse : Opcode → Bool
  | .pw2pct | .pw2ang | .duty2pw => true
  | .haspending | .take | .ispressed | .ack | .pw2duty | .pct2pw | .ang2pw | .setbounds | .wrduty => false

/-! ### The fields of a command word (R74) -/

/-- Bits 39:32. -/
def opcField (w : CommandWord) : BitVec 8 := w.extractLsb' 32 8

/-- Bits 31:16. -/
def fieldB (w : CommandWord) : Word16 := w.extractLsb' 16 16

/-- Bits 15:0. -/
def fieldA (w : CommandWord) : Word16 := w.extractLsb' 0 16

/-- Bits 31:0, the fields `b` and `a` together. -/
def fieldBA (w : CommandWord) : Word32 := w.extractLsb' 0 32

/-- The operation of a command word, its operands taken from the fields of R77. -/
def Opcode.instr (o : Opcode) (w : CommandWord) : Instr :=
  match o with
  | .haspending => .haspending
  | .take => .take
  | .ispressed => .ispressed
  | .ack => .ack
  | .pw2duty => .pw2duty (fieldA w)
  | .pct2pw => .pct2pw (fieldA w)
  | .ang2pw => .ang2pw (fieldA w) (fieldB w)
  | .setbounds => .setbounds (fieldA w) (fieldB w)
  | .wrduty => .wrduty (fieldBA w)
  | .pw2pct => .pw2pct (fieldA w)
  | .pw2ang => .pw2ang (fieldA w) (fieldB w)
  | .duty2pw => .duty2pw (fieldBA w)

/-! ### Decoding -/

/-- A word of a known command: reserved by R79 (b) to (e), or the operation. -/
def decodeKnown (c : Config) (o : Opcode) (w : CommandWord) : Decoded :=
  if o.format = .n ∧ fieldBA w ≠ 0 then .reserved .operandBitsNonzero
  else if o.format = .a ∧ fieldB w ≠ 0 then .reserved .fieldBNonzero
  else if o.needsAngle = true ∧ c.hasAngle = false then .reserved .angleAbsent
  else if o.needsInverse = true ∧ c.hasInverse = false then .reserved .inverseAbsent
  else .op (o.instr w)

/-- A command word of port C (R76, R79). -/
def decodeCommand (c : Config) (w : CommandWord) : Decoded :=
  match Opcode.ofBits (opcField w) with
  | none => .reserved .unknownOpcode
  | some o => decodeKnown c o w

/-- A lane Q word: an `EDGE` when `qe`, bit 2, is 1 (R71, R80, R100). -/
def decodeLaneQ (w : LaneQWord) : Decoded :=
  if w.extractLsb' 2 1 = 1 then .op (.edge (w.extractLsb' 1 1) (w.extractLsb' 0 1)) else .noEvent

/-- A lane S word: a `BTN` when `se`, bit 1, is 1 (R72, R80, R110). -/
def decodeLaneS (w : LaneSWord) : Decoded :=
  if w.extractLsb' 1 1 = 1 then .op (.btn (w.extractLsb' 0 1)) else .noEvent

/-- A port H word: `RESET` when it is 1 (R73, R80). -/
def decodeHost (w : HostWord) : Decoded :=
  if w = 1 then .op .reset else .noEvent

/-- A word at its port. Port and lane identify the kind of word, and no mode changes the decoding (R81). -/
def decode (c : Config) : PortWord → Decoded
  | .laneQ w => decodeLaneQ w
  | .laneS w => decodeLaneS w
  | .portC w => decodeCommand c w
  | .portH w => decodeHost w

/-! ### Encoding (R82) -/

/-- A command word from its three fields (R74). -/
def commandWord (o : Opcode) (b a : Word16) : CommandWord := o.bits ++ b ++ a

/-- A command word of format W (R74). -/
def commandWordW (o : Opcode) (d : Word32) : CommandWord := o.bits ++ d

/-- The word of an operation at its port. -/
def encode : Instr → PortWord
  | .edge a b => .laneQ (1#1 ++ a ++ b)
  | .btn sw => .laneS (1#1 ++ sw)
  | .reset => .portH 1
  | .haspending => .portC (commandWord .haspending 0 0)
  | .take => .portC (commandWord .take 0 0)
  | .ispressed => .portC (commandWord .ispressed 0 0)
  | .ack => .portC (commandWord .ack 0 0)
  | .pw2duty us => .portC (commandWord .pw2duty 0 us)
  | .pct2pw p => .portC (commandWord .pct2pw 0 p)
  | .ang2pw angle angleMax => .portC (commandWord .ang2pw angleMax angle)
  | .setbounds minUs maxUs => .portC (commandWord .setbounds maxUs minUs)
  | .wrduty duty => .portC (commandWordW .wrduty duty)
  | .pw2pct us => .portC (commandWord .pw2pct 0 us)
  | .pw2ang us angleMax => .portC (commandWord .pw2ang angleMax us)
  | .duty2pw duty => .portC (commandWordW .duty2pw duty)

/-! ### Words numbered as spec/opcode_table.json numbers them -/

/-- The port word that a table word of `nbits` bits stands for. A row wider than one byte is a command word of port C.
The rows of one byte are the event words of lane Q (4 to 7), lane S (2, 3) and port H (1), three ranges that do not
meet; no other value of one byte is an operation's word. DESIGN CHOICE: log 11. -/
def tablePortWord (nbits w : Nat) : Option PortWord :=
  if w < 2 ^ nbits then
    if nbits ≤ 8 then
      if 4 ≤ w ∧ w < 8 then some (.laneQ (BitVec.ofNat 3 w))
      else if 2 ≤ w ∧ w < 4 then some (.laneS (BitVec.ofNat 2 w))
      else if w = 1 then some (.portH (BitVec.ofNat 1 w))
      else none
    else if w < 2 ^ 40 then some (.portC (BitVec.ofNat 40 w))
    else none
  else none

/-- The operation this hardware's decoder reads from a table word. -/
def decodeTableWord (nbits w : Nat) : Option Instr :=
  match tablePortWord nbits w with
  | none => none
  | some p =>
    match decode Config.hardware p with
    | .op i => some i
    | .noEvent => none
    | .reserved _ => none

end Sys2Proof
end

