-- ==== Sys2Proof/Machine/Fetch.lean ====
section
/-!
DEFINITION. What step takes from the ports: the next presented word and what it is (R56, R70). The block fetches no
program (R22, R61): a word takes effect because an agent presents it.
-/

namespace Sys2Proof.Machine

/-- The word is taken from its port. -/
def State.consume (s : State) : State := { s with presented := s.presented.tail }

/-- An agent presents a word next. -/
def State.present (s : State) (w : PortWord) : State := { s with presented := w :: s.presented }

/-- The word presented next, if any. -/
def State.nextWord (s : State) : Option PortWord := s.presented.head?

/-- An agent presents the word of a table row next (log 11). -/
def State.presentTableWord (s : State) (nbits w : Nat) : State :=
  match tablePortWord nbits w with
  | none => s
  | some p => s.present p

end Sys2Proof.Machine
end

