-- ==== Sys2Proof/Machine/Step.lean ====
section
/-!
DEFINITION. One step: the next presented word takes effect, whole, before any other (R52, R56).
-/

namespace Sys2Proof.Machine

/-- The next presented word is taken and takes effect: an operation runs, a no-event word does nothing (R80), a reserved
command word is answered with `ERR_RESERVED` (R79). With no word presented nothing changes (R203; log 10). -/
def step (s : State) : Host.Outcome State Fault Refusal :=
  match s.nextWord with
  | none => .next s
  | some w =>
    match decode s.cfg w with
    | .op i => exec i s.consume
    | .noEvent => .next s.consume
    | .reserved _ => raise .reserved s.consume

/-- `s` with the operation of a table word presented next (log 11). -/
def State.withFetchWord (s : State) (nbits w : Nat) : State := s.presentTableWord nbits w

end Sys2Proof.Machine
end

