-- ==== Sys2Proof/Machine/Trace.lean ====
section
/-!
DEFINITION. The issuing side of the ports: trace lines and their words (R82), the operand `$` (R83), the
pseudo-operations (R84), the consumption protocol (R133), the boot sequence (R224) and the order of a coincident command
and event (R60). The block sees only the words; what is here belongs to the agents and is no state of the block.
-/

namespace Sys2Proof.Machine

/-- An operand of a trace line: a number, or `$` (R82, R83). -/
inductive Operand where
  /-- a numeral -/
  | num (v : Int)
  /-- `$`, the `data` of the consumer's most recent successful response -/
  | last
  deriving DecidableEq, Repr

/-- A consumer's line before its word is assembled (R82). -/
inductive CommandLine where
  | haspending | take | ispressed | ack
  | pw2duty (us : Operand)
  | pct2pw (p : Operand)
  | ang2pw (angle angleMax : Operand)
  | setbounds (minUs maxUs : Operand)
  | wrduty (duty : Operand)
  | pw2pct (us : Operand)
  | pw2ang (us angleMax : Operand)
  | duty2pw (duty : Operand)
  deriving DecidableEq, Repr

/-- A line of a trace (R82). -/
inductive TraceLine where
  /-- `P: EDGE a,b` -/
  | edge (a b : Level)
  /-- `P: BTN sw` -/
  | btn (sw : Level)
  /-- `H: RESET` -/
  | reset
  /-- a line of the consumer -/
  | cmd (c : CommandLine)
  deriving DecidableEq, Repr

/-- The `data` of the most recent successful response (R83). -/
def lastData : List Response → Option Word32
  | [] => none
  | r :: rs =>
    match r.st with
    | .ok => some r.data
    | .err _ => lastData rs

/-- The value of an operand; `$` is read as an unsigned 32-bit number and has no value before the first successful
response (R83; log 12). -/
def Operand.value (o : Operand) (last : Option Word32) : Option Int :=
  match o with
  | .num v => some v
  | .last => last.map zext

/-- The field of an unsigned operand; a value outside the field cannot be assembled (R77, R82). -/
def asUnsigned (n : Nat) (v : Int) : Option (BitVec n) := if 0 ≤ v ∧ v < 2 ^ n then some (enc n v) else none

/-- The field of a signed operand; a value outside the field cannot be assembled (R77, R82). -/
def asSigned (n : Nat) (v : Int) : Option (BitVec n) :=
  if -(2 ^ (n - 1)) ≤ v ∧ v < 2 ^ (n - 1) then some (enc n v) else none

/-- An unsigned 16-bit operand: `us`, `angleMax`, `minUs`, `maxUs` (R77). -/
def Operand.unsigned16 (o : Operand) (last : Option Word32) : Option Word16 := (o.value last).bind (asUnsigned 16)

/-- A signed 16-bit operand: `p`, `angle` (R77). -/
def Operand.signed16 (o : Operand) (last : Option Word32) : Option Word16 := (o.value last).bind (asSigned 16)

/-- An unsigned 32-bit operand: `duty` (R77). -/
def Operand.unsigned32 (o : Operand) (last : Option Word32) : Option Word32 := (o.value last).bind (asUnsigned 32)

/-- The command a consumer's line stands for, `$` resolved; none when it cannot be assembled (R82, R83). -/
def CommandLine.assemble (c : CommandLine) (last : Option Word32) : Option Instr :=
  match c with
  | .haspending => some .haspending
  | .take => some .take
  | .ispressed => some .ispressed
  | .ack => some .ack
  | .pw2duty us => (us.unsigned16 last).map .pw2duty
  | .pct2pw p => (p.signed16 last).map .pct2pw
  | .ang2pw angle angleMax => (angle.signed16 last).bind fun x => (angleMax.unsigned16 last).map (.ang2pw x)
  | .setbounds minUs maxUs => (minUs.unsigned16 last).bind fun x => (maxUs.unsigned16 last).map (.setbounds x)
  | .wrduty duty => (duty.unsigned32 last).map .wrduty
  | .pw2pct us => (us.unsigned16 last).map .pw2pct
  | .pw2ang us angleMax => (us.unsigned16 last).bind fun x => (angleMax.unsigned16 last).map (.pw2ang x)
  | .duty2pw duty => (duty.unsigned32 last).map .duty2pw

/-- The operation a line stands for (R82). -/
def TraceLine.assemble (l : TraceLine) (last : Option Word32) : Option Instr :=
  match l with
  | .edge a b => some (.edge a b)
  | .btn sw => some (.btn sw)
  | .reset => some .reset
  | .cmd c => c.assemble last

/-- The line is the consumer's. -/
def TraceLine.isCommand : TraceLine → Bool
  | .cmd _ => true
  | .edge _ _ => false
  | .btn _ => false
  | .reset => false

/-- The newest response carries an error. -/
def lastFailed : List Response → Bool
  | [] => false
  | r :: _ => decide (r.st ≠ .ok)

/-- How a trace ends. -/
inductive TraceEnd where
  /-- after its last line -/
  | done (s : State)
  /-- at a command that ended in an error, in a pseudo-operation (R84) -/
  | stopped (s : State)
  /-- at a line that cannot be assembled (R82) -/
  | unassembled (s : State)
  /-- at a step that faulted; no step does -/
  | fault (r : Fault)
  /-- at a step that was refused; no step is -/
  | refused (r : Refusal)
  deriving DecidableEq, Repr

/-- Run a trace: each line's word is presented and takes effect, in the order of the lines (R56, R82). With
`stopOnError` the run ends at the first command that ends in an error, as a pseudo-operation does (R84). -/
def runTrace (stopOnError : Bool) : List TraceLine → State → TraceEnd
  | [], s => .done s
  | l :: ls, s =>
    match l.assemble (lastData s.responses) with
    | none => .unassembled s
    | some i =>
      match step (s.present (encode i)) with
      | .fault r => .fault r
      | .refused r => .refused r
      | .next t =>
        if stopOnError && l.isCommand && lastFailed t.responses then .stopped t else runTrace stopOnError ls t

/-- The pseudo-operations (R84). -/
inductive Pseudo where
  /-- `DRAIN` -/
  | drain
  /-- `SETPW us` -/
  | setpw (us : Operand)
  /-- `SETPCT p` -/
  | setpct (p : Operand)
  /-- `SETANG angle, angleMax` -/
  | setang (angle angleMax : Operand)
  /-- `REBOUND minUs, maxUs, p` -/
  | rebound (minUs maxUs p : Operand)
  deriving DecidableEq, Repr

/-- The commands a pseudo-operation stands for (R84). -/
def Pseudo.expand : Pseudo → List CommandLine
  | .drain => [.ack, .take]
  | .setpw us => [.pw2duty us, .wrduty .last]
  | .setpct p => [.pct2pw p, .pw2duty .last, .wrduty .last]
  | .setang angle angleMax => [.ang2pw angle angleMax, .pw2duty .last, .wrduty .last]
  | .rebound minUs maxUs p => [.setbounds minUs maxUs, .pct2pw p, .pw2duty .last, .wrduty .last]

/-- The consumer's lines of a trace, in order. A pseudo-operation is not atomic: a trace that holds its commands may
hold lines of the other agents between them (R84). -/
def commandsOf : List TraceLine → List CommandLine
  | [] => []
  | l :: ls =>
    match l with
    | .cmd c => c :: commandsOf ls
    | .edge _ _ => commandsOf ls
    | .btn _ => commandsOf ls
    | .reset => commandsOf ls

/-- Run a pseudo-operation with no other agent's line between its commands (R84). -/
def runPseudo (p : Pseudo) (s : State) : TraceEnd := runTrace true (p.expand.map .cmd) s

/-- The consumer's commands after a poll: a drain when `HASPENDING` returned 1 (R133). R133 leaves open when `ISPRESSED` is
needed: `readSwitch` is the consumer's own choice, free after a poll of 1 and of 0, and the command comes last, once.
DESIGN CHOICE, safe: log 18. -/
def afterPoll (readSwitch : Bool) (s : State) : List CommandLine :=
  (if lastData s.responses = some 1 then Pseudo.drain.expand else []) ++ if readSwitch then [.ispressed] else []

/-- The boot sequence up to the first position: reset, bounds, one event for each of the lines and the switch with the
present levels, and a drain whose result is discarded (R224). -/
def bootLines (minUs maxUs : Operand) (a b sw : Level) : List TraceLine :=
  [.reset, .cmd (.setbounds minUs maxUs), .edge a b, .btn sw] ++ Pseudo.drain.expand.map .cmd

/-- A command and an event that coincide in a clocked realisation: the consumer's command is applied first (R60). -/
def State.presentCoincident (s : State) (command event : PortWord) : State := (s.present event).present command

end Sys2Proof.Machine
end

