-- ==== Sys2Proof/Safety.lean ====
section
/-!
DEFINITION. The terms claims are stated in: the invariant of R30, the access matrix of R34, runs of operations (R56) and
what they deliver (R58), the overflow premise (R229) and the consumer's obligation (R194).
-/

namespace Sys2Proof.Machine

/-! ### The invariant of the bounds -/

/-- `boundsValid = 1` implies `minUs < maxUs`; `boundsValid = 0` implies both are 0 (R30). -/
abbrev BoundsInv (s : State) : Prop :=
  (s.boundsValid = true → s.minUs < s.maxUs) ∧ (s.boundsValid = false → s.minUs = 0 ∧ s.maxUs = 0)

/-! ### The record and the access matrix -/

/-- The eight fields of S (R20). -/
inductive Fld where
  | prev | acc | pressed | pending | minUs | maxUs | boundsValid | dutyOut
  deriving DecidableEq, Repr

/-- What a field holds, as a number. -/
def State.fld (s : State) : Fld → Nat
  | .prev => s.prev.toNat
  | .acc => s.acc.toNat
  | .pressed => s.pressed.toNat
  | .pending => s.pending.toNat
  | .minUs => s.minUs.toNat
  | .maxUs => s.maxUs.toNat
  | .boundsValid => s.boundsValid.toNat
  | .dutyOut => s.dutyOut.toNat

/-- The two states hold the same record S. -/
abbrev SameRecord (s t : State) : Prop := ∀ f : Fld, s.fld f = t.fld f

/-- The columns marked `r` or `rw` in an operation's row of R34. -/
def readsOf : Instr → List Fld
  | .edge _ _ => [.prev, .acc]
  | .btn _ => []
  | .reset => []
  | .haspending => [.pending]
  | .take => [.acc]
  | .ispressed => [.pressed]
  | .ack => []
  | .pw2duty _ => []
  | .pct2pw _ => [.minUs, .maxUs, .boundsValid]
  | .ang2pw _ _ => [.minUs, .maxUs, .boundsValid]
  | .setbounds _ _ => []
  | .wrduty _ => []
  | .pw2pct _ => [.minUs, .maxUs, .boundsValid]
  | .pw2ang _ _ => [.minUs, .maxUs, .boundsValid]
  | .duty2pw _ => []

/-- The columns marked `w` or `rw` in an operation's row of R34; `BTN` writes `pending` only under
`PENDING_ON_BUTTON`. -/
def writesOf (c : Config) : Instr → List Fld
  | .edge _ _ => [.prev, .acc, .pending]
  | .btn _ => if c.pendingOnButton then [.pressed, .pending] else [.pressed]
  | .reset => [.prev, .acc, .pressed, .pending, .minUs, .maxUs, .boundsValid, .dutyOut]
  | .haspending => []
  | .take => [.acc]
  | .ispressed => []
  | .ack => [.pending]
  | .pw2duty _ => []
  | .pct2pw _ => []
  | .ang2pw _ _ => []
  | .setbounds _ _ => [.minUs, .maxUs, .boundsValid]
  | .wrduty _ => [.dutyOut]
  | .pw2pct _ => []
  | .pw2ang _ _ => []
  | .duty2pw _ => []

/-- The component an operation belongs to (R3, R21); `RESET` belongs to both. -/
inductive Component where
  | qdec | auc | both
  deriving DecidableEq, Repr

/-- The component of an operation (R21). -/
def componentOf : Instr → Component
  | .edge _ _ => .qdec
  | .btn _ => .qdec
  | .reset => .both
  | .haspending => .qdec
  | .take => .qdec
  | .ispressed => .qdec
  | .ack => .qdec
  | .pw2duty _ => .auc
  | .pct2pw _ => .auc
  | .ang2pw _ _ => .auc
  | .setbounds _ _ => .auc
  | .wrduty _ => .auc
  | .pw2pct _ => .auc
  | .pw2ang _ _ => .auc
  | .duty2pw _ => .auc

/-! ### Runs of operations -/

/-- Operations one after the other, each on the state its predecessor left (R56). -/
def runOps : List Instr → State → Result
  | [], s => .next s
  | i :: is, s =>
    match exec i s with
    | .next t => runOps is t
    | .fault r => .fault r
    | .refused r => .refused r

/-- The response to a command (R56): the newest response after it. -/
def answer (i : Instr) (s : State) : Option Response :=
  match exec i s with
  | .next t => t.responses.head?
  | .fault _ => none
  | .refused _ => none

/-- The operation is an `EDGE`. -/
def isEdge : Instr → Bool
  | .edge _ _ => true
  | .btn _ => false
  | .reset => false
  | .haspending => false
  | .take => false
  | .ispressed => false
  | .ack => false
  | .pw2duty _ => false
  | .pct2pw _ => false
  | .ang2pw _ _ => false
  | .setbounds _ _ => false
  | .wrduty _ => false
  | .pw2pct _ => false
  | .pw2ang _ _ => false
  | .duty2pw _ => false

/-- The delta of an operation applied in a state: that of R103 for an `EDGE`, 0 for every other. -/
def edgeDelta (i : Instr) (s : State) : Int :=
  match i with
  | .edge a b => delta (transitionKey s.prev (levelPair a b))
  | .btn _ => 0
  | .reset => 0
  | .haspending => 0
  | .take => 0
  | .ispressed => 0
  | .ack => 0
  | .pw2duty _ => 0
  | .pct2pw _ => 0
  | .ang2pw _ _ => 0
  | .setbounds _ _ => 0
  | .wrduty _ => 0
  | .pw2pct _ => 0
  | .pw2ang _ _ => 0
  | .duty2pw _ => 0

/-- What the consumer takes with an operation that ended in the state `t`: the response to a `TAKE`, read as a signed
integer (R58). -/
def takenBy (i : Instr) (t : State) : Int :=
  if i = .take then (t.responses.head?.map fun r => sext r.data).getD 0 else 0

/-- What a run delivers (R58). -/
structure Tally where
  /-- the sum of the deltas of its `EDGE` events -/
  edges : Int
  /-- the sum of the results of its `TAKE` commands -/
  taken : Int
  /-- the state at its end -/
  final : State
  deriving DecidableEq, Repr

/-- The tally of a run; none if an operation of it did not end in a next state. -/
def tally : List Instr → State → Option Tally
  | [], s => some ⟨0, 0, s⟩
  | i :: is, s =>
    match exec i s with
    | .next t => (tally is t).map fun r => ⟨edgeDelta i s + r.edges, takenBy i t + r.taken, r.final⟩
    | .fault _ => none
    | .refused _ => none

/-- The operation does not overflow the range of `acc` (R24, R58). -/
def fitsAcc (i : Instr) (s : State) : Bool :=
  decide (-(2 ^ 31) ≤ sext s.acc + edgeDelta i s ∧ sext s.acc + edgeDelta i s < 2 ^ 31)

/-- No `EDGE` of a run overflows the range of `acc` (R58, R229). -/
def neverOverflows : List Instr → State → Bool
  | [], _ => true
  | i :: is, s =>
    fitsAcc i s &&
      match exec i s with
      | .next t => neverOverflows is t
      | .fault _ => false
      | .refused _ => false

/-- No command of a run is answered with an error: the obligation of a consumer (R194). -/
def errorFree : List Instr → State → Bool
  | [], _ => true
  | i :: is, s =>
    match exec i s with
    | .next t => !(i.agent == .consumer && lastFailed t.responses) && errorFree is t
    | .fault _ => false
    | .refused _ => false

end Sys2Proof.Machine
end

