-- ==== Sys2Proof/Certificates/Slice0/Obligations.lean ====
section
/-!
DEFINITION. The statements about the model, each a rule of the spec or derived from some.
-/

open Sys2Proof Sys2Proof.Machine

/-! ### Words -/

/-- Decoding the word of an operation that the configuration has gives the operation back (R77, R82). -/
def Obligations.EncodedWordDecodesToItsOperation : Prop :=
  ∀ (c : Config) (i : Instr), i.wellFormed c = true → decode c (encode i) = .op i

/-- A word that decodes to an operation is the one word of that operation, and the configuration has it (R79 to R81).
-/
def Obligations.DecodedOperationHasOneWord : Prop :=
  ∀ (c : Config) (w : PortWord) (i : Instr), decode c w = .op i → encode i = w ∧ i.wellFormed c = true

/-- Words written out from the tables of R71 to R74 and R76 decode to the operations they stand for. -/
def Obligations.WrittenWordsDecode : Prop :=
  ∀ c : Config, c.hasAngle = true → c.hasInverse = true →
    decode c (.laneQ 0b110#3) = .op (.edge 1 0) ∧
    decode c (.laneS 0b10#2) = .op (.btn 0) ∧
    decode c (.portH 1#1) = .op .reset ∧
    decode c (.portC 0x0200000000#40) = .op .take ∧
    decode c (.portC 0x10000005DC#40) = .op (.pw2duty 1500) ∧
    decode c (.portC 0x110000FFFF#40) = .op (.pct2pw 0xFFFF) ∧
    decode c (.portC 0x1200B4005A#40) = .op (.ang2pw 90 180) ∧
    decode c (.portC 0x1307D003E8#40) = .op (.setbounds 1000 2000) ∧
    decode c (.portC 0x1400000266#40) = .op (.wrduty 614) ∧
    decode c (.portC 0x1900B405DC#40) = .op (.pw2ang 1500 180)

/-- The five clauses of R79, on the bits of the command word: (a) `opc` outside the map, (b) format N with `w[31:0] ≠
0`, (c) format A with `w[31:16] ≠ 0`, (d) an angle command without `HAS_ANGLE`, (e) an inverse command without
`HAS_INVERSE`. A reserved word is answered with `ERR_RESERVED` and changes no state; every other word is an operation.
-/
def Obligations.ReservedCommandWords : Prop :=
  ∀ (s : State) (w : BitVec 40) (rest : List PortWord), s.presented = .portC w :: rest →
    let opc := (w.extractLsb' 32 8).toNat
    let isReserved :=
      opc ∉ [0x01, 0x02, 0x03, 0x04, 0x10, 0x11, 0x12, 0x13, 0x14, 0x18, 0x19, 0x1A] ∨
      (opc ∈ [0x01, 0x02, 0x03, 0x04] ∧ w.extractLsb' 0 32 ≠ 0#32) ∨
      (opc ∈ [0x10, 0x11, 0x18] ∧ w.extractLsb' 16 16 ≠ 0#16) ∨
      (s.cfg.hasAngle = false ∧ opc ∈ [0x12, 0x19]) ∨
      (s.cfg.hasInverse = false ∧ opc ∈ [0x18, 0x19, 0x1A])
    (isReserved →
      step s = .next { s with presented := rest, responses := ⟨.err .reserved, 0⟩ :: s.responses }) ∧
    (¬ isReserved → ∃ i : Instr, decode s.cfg (.portC w) = .op i ∧ step s = exec i { s with presented := rest })

/-- Lane and host words have no reserved values (R80): every value with the event bit is an event, and one without it
causes no operation and changes no state. That a step takes such a word from its port, and is a step at all, is the
model's choice (log 10). -/
def Obligations.LaneAndHostWords : Prop :=
  ∀ (s : State) (rest : List PortWord),
    (∀ w : BitVec 3, s.presented = .laneQ w :: rest →
      (w.toNat < 4 → step s = .next { s with presented := rest }) ∧
      (4 ≤ w.toNat → step s = exec (.edge (w.extractLsb' 1 1) (w.extractLsb' 0 1)) { s with presented := rest })) ∧
    (∀ w : BitVec 2, s.presented = .laneS w :: rest →
      (w.toNat < 2 → step s = .next { s with presented := rest }) ∧
      (2 ≤ w.toNat → step s = exec (.btn (w.extractLsb' 0 1)) { s with presented := rest })) ∧
    (∀ w : BitVec 1, s.presented = .portH w :: rest →
      (w = 0 → step s = .next { s with presented := rest }) ∧
      (w = 1 → step s = exec .reset { s with presented := rest }))

/-- A port has words for its own agent's operations only (R198). -/
def Obligations.PortsFixTheAgent : Prop :=
  ∀ (c : Config) (w : PortWord) (i : Instr), decode c w = .op i → i.agent = w.agent

/-- The fields of a response word (R75): `st` in bits 35:32, at most 5, and `data` in bits 31:0; the codes of R192. -/
def Obligations.ResponseWordFields : Prop :=
  (∀ r : Response,
    (responseWord r).extractLsb' 32 4 = statusCode r.st ∧ (responseWord r).extractLsb' 0 32 = r.data ∧
    (statusCode r.st).toNat ≤ 5 ∧ (statusCode r.st = 0 ↔ r.st = .ok)) ∧
  [statusCode .ok, statusCode (.err .reserved), statusCode (.err .bounds), statusCode (.err .angleMax),
    statusCode (.err .noBounds), statusCode (.err .dutyRange)] = [0, 1, 2, 3, 4, 5]

/-! ### The whole machine -/

/-- A step runs the operation that the next presented word decodes to, with the word taken from its port. -/
def Obligations.StepRunsTheDecodedOperation : Prop :=
  ∀ (s : State) (w : PortWord) (rest : List PortWord) (i : Instr),
    s.presented = w :: rest → decode s.cfg w = .op i → step s = exec i { s with presented := rest }

/-- Every step, from any state at all, ends in a next state (R190, R235). -/
def Obligations.EveryStepEndsInANextState : Prop := ∀ s : State, ∃ t : State, step s = .next t

/-- With nothing presented nothing changes. The model's choice, from R203 (log 10). -/
def Obligations.NothingPresentedChangesNothing : Prop := ∀ s : State, s.presented = [] → step s = .next s

/-- The record of `State.reset`: the values of R36, which the model takes as its launch state (log 8). -/
def Obligations.ResetStateHasTheResetValues : Prop :=
  State.reset.prev = 0 ∧ State.reset.acc = 0 ∧ State.reset.pressed = false ∧ State.reset.pending = false ∧
  State.reset.minUs = 0 ∧ State.reset.maxUs = 0 ∧ State.reset.boundsValid = false ∧ State.reset.dutyOut = 0

/-- The invariant of the bounds, which the spec infers in R30, holds at reset, the model's launch state (log 8). -/
def Obligations.BoundsInvariantAtReset : Prop := BoundsInv State.reset

/-- The invariant that the spec infers in R30 is true after `RESET`, whatever the state before it, and every step
keeps it, from every state that has it, reached or not. -/
def Obligations.StepKeepsTheBoundsInvariant : Prop :=
  (∀ s t : State, exec .reset s = .next t → BoundsInv t) ∧
  (∀ s t : State, BoundsInv s → step s = .next t → BoundsInv t)

/-- A command word is taken and answered with exactly one response; a word of another port with none (R70). -/
def Obligations.OneResponseForEachCommand : Prop :=
  ∀ (s t : State) (w : PortWord) (rest : List PortWord), s.presented = w :: rest → step s = .next t →
    t.presented = rest ∧
    (w.agent = .consumer → ∃ r : Response, t.responses = r :: s.responses) ∧
    (w.agent ≠ .consumer → t.responses = s.responses)

/-- A step that answers with an error has `data = 0` and writes nothing of the record (R191). -/
def Obligations.ErrorResponsesWriteNothing : Prop :=
  ∀ (s t : State) (r : Response), step s = .next t → t.responses = r :: s.responses → r.st ≠ .ok →
    r.data = 0 ∧ t = { s with presented := s.presented.tail, responses := r :: s.responses }

/-- Nothing is latched (R191): what an operation does is the same whatever responses were sent before it. -/
def Obligations.EarlierResponsesHaveNoEffect : Prop :=
  ∀ (i : Instr) (s : State), ∃ (t : State) (new : List Response),
    t.responses = new ++ s.responses ∧
    ∀ rs : List Response, exec i { s with responses := rs } = .next { t with responses := new ++ rs }

/-- The causes of R192, exactly: an operation alone is answered with an error if and only if its cause holds. -/
def Obligations.ErrorsHaveExactlyTheirCauses : Prop :=
  ∀ (i : Instr) (s : State), errorFree [i] s = false ↔
    ((∃ lo hi : BitVec 16, i = .setbounds lo hi ∧ hi ≤ lo) ∨
     (∃ x : BitVec 16, i = .ang2pw x 0 ∨ i = .pw2ang x 0) ∨
     (s.boundsValid = false ∧
       ∃ x y : BitVec 16, i = .pct2pw x ∨ i = .ang2pw x y ∨ i = .pw2pct x ∨ i = .pw2ang x y) ∨
     (∃ d : BitVec 32, 8191 < d.toNat ∧ (i = .wrduty d ∨ i = .duty2pw d)))

/-- The writes of the access matrix (R34): a field without `w` in an operation's row keeps its value, and so do the
configuration and the words still to come. -/
def Obligations.AccessMatrixWrites : Prop :=
  ∀ (i : Instr) (s t : State), exec i s = .next t →
    t.cfg = s.cfg ∧ t.presented = s.presented ∧ ∀ f : Fld, f ∉ writesOf s.cfg i → t.fld f = s.fld f

/-- The reads of the access matrix (R34): two states that agree on the fields with `r` in an operation's row get the
same response, and every field the operation writes ends the same where it began the same. -/
def Obligations.AccessMatrixReads : Prop :=
  ∀ (i : Instr) (s1 s2 t1 t2 : State), s1.cfg = s2.cfg → (∀ f ∈ readsOf i, s1.fld f = s2.fld f) →
    exec i s1 = .next t1 → exec i s2 = .next t2 →
    (∃ new : List Response, t1.responses = new ++ s1.responses ∧ t2.responses = new ++ s2.responses) ∧
    ∀ f : Fld, s1.fld f = s2.fld f → t1.fld f = t2.fld f

/-- An operation of the decoder and one of the converter leave the same record in either order (R3, R21). -/
def Obligations.ComponentsCommute : Prop :=
  ∀ (q a : Instr) (s : State), componentOf q = .qdec → componentOf a = .auc →
    ∃ t u : State, runOps [q, a] s = .next t ∧ runOps [a, q] s = .next u ∧ SameRecord t u

/-- An operation repeated at once leaves the record as its first run left it, and a command other than `TAKE` is
answered the same; the second `TAKE` returns 0. An operation that writes no field changes no state (R55). -/
def Obligations.RepeatingAnOperation : Prop :=
  ∀ (i : Instr) (s : State), ∃ t u : State, exec i s = .next t ∧ exec i t = .next u ∧ SameRecord u t ∧
    (i.agent = .consumer → i ≠ .take →
      ∃ r : Response, u.responses = r :: r :: s.responses) ∧
    (i = .take → u.responses = ⟨.ok, 0⟩ :: ⟨.ok, s.acc⟩ :: s.responses) ∧
    (writesOf s.cfg i = [] → SameRecord t s)

/-! ### The host -/

/-- `RESET` (R220). -/
def Obligations.ResetUpdatesTheRecord : Prop :=
  encode .reset = .portH 1#1 ∧
  ∀ s : State, exec .reset s = .next { s with
    prev := 0, acc := 0, pressed := false, pending := false, minUs := 0, maxUs := 0, boundsValid := false, dutyOut := 0 }

/-! ### The producer's events -/

/-- The key of a transition is `prev | (new << 2)` (R101), and the table has the classes of R102. -/
def Obligations.TransitionKeyAndTable : Prop :=
  (∀ prev new : BitVec 2,
    transitionKey prev new = (prev.setWidth 4 ||| (new.setWidth 4 <<< 2)) ∧ transitionKey prev new = new ++ prev) ∧
  ∀ k : BitVec 4,
    (k.toNat ∈ [0, 5, 10, 15] → delta k = 0) ∧
    (k.toNat ∈ [1, 7, 8, 14] → delta k = 1) ∧
    (k.toNat ∈ [2, 4, 11, 13] → delta k = -1) ∧
    (k.toNat ∈ [3, 12] → delta k = 2) ∧
    (k.toNat ∈ [6, 9] → delta k = -2)

/-- The closed form of the table, which the spec infers in R106, for the previous levels `pa`, `pb` and the new levels
`na`, `nb`. -/
def Obligations.TransitionTableClosedForm : Prop :=
  ∀ pa pb na nb : BitVec 1, delta (transitionKey (pa ++ pb) (na ++ nb)) =
    if pa = na ∧ pb = nb then 0
    else if pa = na ∨ pb = nb then (if pa ^^^ nb = 0 then 1 else -1)
    else (if pa = pb then 2 else -2)

/-- `EDGE` (R104), for every configuration and every state. -/
def Obligations.EdgeUpdatesTheRecord : Prop :=
  ∀ (a b : BitVec 1) (s : State),
    encode (.edge a b) = .laneQ (1#1 ++ a ++ b) ∧
    (a ++ b = s.prev →
      exec (.edge a b) s = .next { s with pending := if s.cfg.pendingOnNochange then true else s.pending }) ∧
    (a ++ b ≠ s.prev →
      exec (.edge a b) s = .next { s with
        acc := BitVec.ofInt 32 (s.acc.toInt + delta (transitionKey s.prev (a ++ b)))
        prev := a ++ b
        pending := true })

/-- The branch-free form of `EDGE`, which the spec infers in R105. -/
def Obligations.EdgeBranchFreeForm : Prop :=
  ∀ (a b : BitVec 1) (s : State),
    exec (.edge a b) s = .next { s with
      acc := BitVec.ofInt 32 (s.acc.toInt + delta (transitionKey s.prev (a ++ b)))
      prev := a ++ b
      pending := s.pending || (decide (a ++ b ≠ s.prev) || s.cfg.pendingOnNochange) }

/-- `BTN` (R111). -/
def Obligations.BtnSamplesTheSwitch : Prop :=
  ∀ (sw : BitVec 1) (s : State),
    encode (.btn sw) = .laneS (1#1 ++ sw) ∧
    exec (.btn sw) s = .next { s with
      pressed := decide (sw = 0), pending := if s.cfg.pendingOnButton then true else s.pending }

/-- The plus cycle adds 4 and the minus cycle takes 4 away, from any state whose last level pair is `00`, which the
spec infers in R107. -/
def Obligations.PlusAndMinusCycles : Prop :=
  ∀ s : State, s.prev = 0 →
    runOps [.edge 1 0, .edge 1 1, .edge 0 1, .edge 0 0] s = .next { s with acc := s.acc + 4, pending := true } ∧
    runOps [.edge 0 1, .edge 1 1, .edge 1 0, .edge 0 0] s = .next { s with acc := s.acc - 4, pending := true }

/-- `EDGE` and `BTN` commute, which the spec infers in R59. -/
def Obligations.EdgeAndBtnCommute : Prop :=
  ∀ (a b sw : BitVec 1) (s : State), ∃ t : State,
    runOps [.edge a b, .btn sw] s = .next t ∧ runOps [.btn sw, .edge a b] s = .next t

/-- The first `EDGE` after `RESET` is classified against `00`: +2 for `11`, +1 for `10`, -1 for `01`, none for `00`.
The spec infers it in R226. -/
def Obligations.FirstEdgeAfterReset : Prop :=
  ∀ s : State,
    runOps [.reset, .edge 1 1] s = .next { s.clearRecord with acc := 2, prev := 0b11, pending := true } ∧
    runOps [.reset, .edge 1 0] s = .next { s.clearRecord with acc := 1, prev := 0b10, pending := true } ∧
    runOps [.reset, .edge 0 1] s = .next { s.clearRecord with acc := -1, prev := 0b01, pending := true } ∧
    runOps [.reset, .edge 0 0] s = .next { s.clearRecord with pending := s.cfg.pendingOnNochange }

/-! ### The consumer's commands to the decoder -/

/-- `HASPENDING` (R121). -/
def Obligations.HaspendingReturnsTheFlag : Prop :=
  encode .haspending = .portC 0x0100000000#40 ∧
  ∀ s : State, exec .haspending s = .next { s with
    responses := ⟨.ok, if s.pending then 1 else 0⟩ :: s.responses }

/-- `TAKE` (R124). -/
def Obligations.TakeReturnsAndZeroes : Prop :=
  encode .take = .portC 0x0200000000#40 ∧
  ∀ s : State, exec .take s = .next { s with acc := 0, responses := ⟨.ok, s.acc⟩ :: s.responses }

/-- `ISPRESSED` (R127). -/
def Obligations.IspressedReturnsTheSample : Prop :=
  encode .ispressed = .portC 0x0300000000#40 ∧
  ∀ s : State, exec .ispressed s = .next { s with
    responses := ⟨.ok, if s.pressed then 1 else 0⟩ :: s.responses }

/-- `ACK` (R130). -/
def Obligations.AckClearsTheFlag : Prop :=
  encode .ack = .portC 0x0400000000#40 ∧
  ∀ s : State, exec .ack s = .next { s with pending := false, responses := ⟨.ok, 0⟩ :: s.responses }

/-- All four combinations of `pending` and `acc ≠ 0` are reached from reset, which the spec infers in R122. -/
def Obligations.FlagAndAccumulatorAreIndependent : Prop :=
  ∀ flag counted : Bool, ∃ (ops : List Instr) (t : State),
    runOps (.reset :: ops) State.reset = .next t ∧ t.pending = flag ∧ decide (t.acc ≠ 0) = counted

/-- The pairs of R60, in both orders, for an `EDGE` that classifies a transition. -/
def Obligations.CommandAndEventInBothOrders : Prop :=
  ∀ (a b sw : BitVec 1) (s : State),
    (a ++ b ≠ s.prev →
      let d := delta (transitionKey s.prev (a ++ b))
      let moved := { s with acc := BitVec.ofInt 32 (s.acc.toInt + d), prev := a ++ b, pending := true }
      runOps [.take, .edge a b] s =
        .next { moved with acc := BitVec.ofInt 32 d, responses := ⟨.ok, s.acc⟩ :: s.responses } ∧
      runOps [.edge a b, .take] s =
        .next { moved with acc := 0, responses := ⟨.ok, moved.acc⟩ :: s.responses } ∧
      runOps [.ack, .edge a b] s = .next { moved with responses := ⟨.ok, 0⟩ :: s.responses } ∧
      runOps [.edge a b, .ack] s = .next { moved with pending := false, responses := ⟨.ok, 0⟩ :: s.responses } ∧
      runOps [.haspending, .edge a b] s =
        .next { moved with responses := ⟨.ok, if s.pending then 1 else 0⟩ :: s.responses } ∧
      runOps [.edge a b, .haspending] s = .next { moved with responses := ⟨.ok, 1⟩ :: s.responses }) ∧
    (∃ t u : State,
      runOps [.ispressed, .btn sw] s = .next t ∧
      t.responses = ⟨.ok, if s.pressed then 1 else 0⟩ :: s.responses ∧
      runOps [.btn sw, .ispressed] s = .next u ∧
      u.responses = ⟨.ok, if sw = 0 then 1 else 0⟩ :: s.responses)

/-- A command and a classifying `EDGE` presented as coincident in a clocked realisation: a set beats a clear and an
increment survives a take (R60). -/
def Obligations.CoincidentCommandGoesFirst : Prop :=
  ∀ (a b : BitVec 1) (s : State), a ++ b ≠ s.prev →
    (∃ t u : State, step (s.presentCoincident (encode .ack) (encode (.edge a b))) = .next t ∧ step t = .next u ∧
      u.presented = s.presented ∧ u.pending = true) ∧
    (∃ t u : State, step (s.presentCoincident (encode .take) (encode (.edge a b))) = .next t ∧ step t = .next u ∧
      u.presented = s.presented ∧ u.responses = ⟨.ok, s.acc⟩ :: s.responses ∧
      u.acc.toInt = delta (transitionKey s.prev (a ++ b)))

/-- The order `ACK` then `TAKE`, with any events between and after them: if the flag is 0 then nothing is left in the
accumulator, as the spec infers in R228. In the order `TAKE` then `ACK` an event between them leaves its delta
unflagged. -/
def Obligations.DrainLeavesNothingUnflagged : Prop :=
  (∀ (between after : List Instr) (s : State), (∀ i ∈ between ++ after, i.agent = .producer) →
    ∃ t : State, runOps (.ack :: between ++ .take :: after) s = .next t ∧ (t.pending = false → t.acc = 0)) ∧
  (∀ (a b : BitVec 1) (s : State), a ++ b ≠ s.prev →
    ∃ t : State, runOps [.take, .edge a b, .ack] s = .next t ∧ t.pending = false ∧ t.acc ≠ 0)

/-- Conservation of ticks, which the spec infers in R58: over any run without `RESET`, from any state, what the
`TAKE`s return and what is left agree with what was there and the deltas of the `EDGE`s, modulo `2^ACC_W`; exactly
when no `EDGE` overflows. -/
def Obligations.TicksAreConserved : Prop :=
  ∀ (ops : List Instr) (s : State), (∀ i ∈ ops, i ≠ .reset) → ∃ r : Tally, tally ops s = some r ∧
    ((r.taken + r.final.acc.toInt) - (s.acc.toInt + r.edges)) % 2 ^ 32 = 0 ∧
    (neverOverflows ops s = true → r.taken + r.final.acc.toInt = s.acc.toInt + r.edges)

/-- From an accumulator of 0, no run with at most `2^(ACC_W - 2) - 1` `EDGE`s overflows, which the spec infers in
R229. -/
def Obligations.NoOverflowWithinTheBound : Prop :=
  ∀ (ops : List Instr) (s : State), s.acc = 0 → ops.countP isEdge ≤ 1073741823 → neverOverflows ops s = true

/-! ### The converter's forward commands -/

/-- `PW2DUTY` (R142): `(us * DUTY_MAX) div PERIOD_US`, with `DUTY_MAX = 8191` and `PERIOD_US = 1000000 div FREQ_HZ`. -/
def Obligations.Pw2dutyComputes : Prop :=
  ∀ (us : BitVec 16) (s : State),
    encode (.pw2duty us) = .portC (0x10#8 ++ 0#16 ++ us) ∧
    exec (.pw2duty us) s = .next { s with
      responses := ⟨.ok, BitVec.ofNat 32 (us.toNat * 8191 / (1000000 / s.cfg.freqHz))⟩ :: s.responses }

/-- Corner cases (a), (b) and (d) that the spec infers in R143. -/
def Obligations.Pw2dutyCornerCases : Prop :=
  ∀ s : State,
    answer (.pw2duty 0) s = some ⟨.ok, 0⟩ ∧
    (∀ us : BitVec 16, us.toNat = s.cfg.periodUs → answer (.pw2duty us) s = some ⟨.ok, 8191⟩) ∧
    (∀ us1 us2 : BitVec 16, us1 ≤ us2 → ∃ d1 d2 : BitVec 32,
      answer (.pw2duty us1) s = some ⟨.ok, d1⟩ ∧ answer (.pw2duty us2) s = some ⟨.ok, d2⟩ ∧ d1 ≤ d2)

/-- `PCT2PW` (R146): `ERR_NOBOUNDS` without bounds, else `minUs + ((maxUs - minUs) * clamp(p, 0, 100)) div 100`. -/
def Obligations.Pct2pwComputes : Prop :=
  ∀ (p : BitVec 16) (s : State),
    encode (.pct2pw p) = .portC (0x11#8 ++ 0#16 ++ p) ∧
    (s.boundsValid = false →
      exec (.pct2pw p) s = .next { s with responses := ⟨.err .noBounds, 0⟩ :: s.responses }) ∧
    (s.boundsValid = true → s.minUs < s.maxUs →
      exec (.pct2pw p) s = .next { s with
        responses := ⟨.ok, BitVec.ofNat 32 (s.minUs.toNat +
          (s.maxUs.toNat - s.minUs.toNat) * (max 0 (min 100 p.toInt)).toNat / 100)⟩ :: s.responses })

/-- Corner cases (a), (b) and (c) that the spec infers in R147. -/
def Obligations.Pct2pwStaysInTheBounds : Prop :=
  ∀ s : State, s.boundsValid = true → s.minUs < s.maxUs →
    (∀ p : BitVec 16, ∃ d : BitVec 32, answer (.pct2pw p) s = some ⟨.ok, d⟩ ∧
      s.minUs.toNat ≤ d.toNat ∧ d.toNat ≤ s.maxUs.toNat ∧
      (p.toInt ≤ 0 → d.toNat = s.minUs.toNat) ∧ (100 ≤ p.toInt → d.toNat = s.maxUs.toNat)) ∧
    (∀ p q : BitVec 16, p.toInt ≤ q.toInt → ∃ d e : BitVec 32,
      answer (.pct2pw p) s = some ⟨.ok, d⟩ ∧ answer (.pct2pw q) s = some ⟨.ok, e⟩ ∧ d ≤ e)

/-- `ANG2PW` (R149): `ERR_ANGLEMAX`, then `ERR_NOBOUNDS`, else
`minUs + ((maxUs - minUs) * clamp(angle, 0, angleMax)) div angleMax`. -/
def Obligations.Ang2pwComputes : Prop :=
  ∀ (angle angleMax : BitVec 16) (s : State),
    encode (.ang2pw angle angleMax) = .portC (0x12#8 ++ angleMax ++ angle) ∧
    (s.cfg.hasAngle = false → decode s.cfg (encode (.ang2pw angle angleMax)) = .reserved .angleAbsent) ∧
    (angleMax = 0 →
      exec (.ang2pw angle angleMax) s = .next { s with responses := ⟨.err .angleMax, 0⟩ :: s.responses }) ∧
    (angleMax ≠ 0 → s.boundsValid = false →
      exec (.ang2pw angle angleMax) s = .next { s with responses := ⟨.err .noBounds, 0⟩ :: s.responses }) ∧
    (angleMax ≠ 0 → s.boundsValid = true → s.minUs < s.maxUs →
      exec (.ang2pw angle angleMax) s = .next { s with
        responses := ⟨.ok, BitVec.ofNat 32 (s.minUs.toNat +
          (s.maxUs.toNat - s.minUs.toNat) * (max 0 (min (angleMax.toNat : Int) angle.toInt)).toNat /
            angleMax.toNat)⟩ :: s.responses })

/-- Corner cases (a), (b) and (c) that the spec infers in R150. -/
def Obligations.Ang2pwStaysInTheBounds : Prop :=
  ∀ (angle angleMax : BitVec 16) (s : State), s.boundsValid = true → s.minUs < s.maxUs → angleMax ≠ 0 →
    ∃ d : BitVec 32, answer (.ang2pw angle angleMax) s = some ⟨.ok, d⟩ ∧
      s.minUs.toNat ≤ d.toNat ∧ d.toNat ≤ s.maxUs.toNat ∧
      (angle.toInt ≤ 0 → d.toNat = s.minUs.toNat) ∧
      ((angleMax.toNat : Int) ≤ angle.toInt → d.toNat = s.maxUs.toNat) ∧
      (32767 < angleMax.toNat → d.toNat < s.maxUs.toNat)

/-- `SETBOUNDS` (R152): refused unless `minUs < maxUs`; `dutyOut` is not changed. -/
def Obligations.SetboundsUpdatesTheBounds : Prop :=
  ∀ (lo hi : BitVec 16) (s : State),
    encode (.setbounds lo hi) = .portC (0x13#8 ++ hi ++ lo) ∧
    (hi ≤ lo → exec (.setbounds lo hi) s = .next { s with responses := ⟨.err .bounds, 0⟩ :: s.responses }) ∧
    (lo < hi →
      exec (.setbounds lo hi) s = .next { s with
        minUs := lo, maxUs := hi, boundsValid := true, responses := ⟨.ok, 0⟩ :: s.responses })

/-- `WRDUTY` (R156): refused above `DUTY_MAX = 8191`. -/
def Obligations.WrdutyWritesTheDuty : Prop :=
  ∀ (duty : BitVec 32) (s : State),
    encode (.wrduty duty) = .portC (0x14#8 ++ duty) ∧
    (8191 < duty.toNat →
      exec (.wrduty duty) s = .next { s with responses := ⟨.err .dutyRange, 0⟩ :: s.responses }) ∧
    (duty.toNat ≤ 8191 →
      exec (.wrduty duty) s = .next { s with
        dutyOut := duty.setWidth 13, responses := ⟨.ok, 0⟩ :: s.responses })

/-! ### The converter's inverse commands -/

/-- `PW2PCT` (R172): `ERR_NOBOUNDS` without bounds, else
`((clamp(us, minUs, maxUs) - minUs) * 100) div (maxUs - minUs)`. -/
def Obligations.Pw2pctComputes : Prop :=
  ∀ (us : BitVec 16) (s : State),
    encode (.pw2pct us) = .portC (0x18#8 ++ 0#16 ++ us) ∧
    (s.cfg.hasInverse = false → decode s.cfg (encode (.pw2pct us)) = .reserved .inverseAbsent) ∧
    (s.boundsValid = false →
      exec (.pw2pct us) s = .next { s with responses := ⟨.err .noBounds, 0⟩ :: s.responses }) ∧
    (s.boundsValid = true → s.minUs < s.maxUs →
      exec (.pw2pct us) s = .next { s with
        responses := ⟨.ok, BitVec.ofNat 32 ((max s.minUs.toNat (min s.maxUs.toNat us.toNat) - s.minUs.toNat) * 100 /
          (s.maxUs.toNat - s.minUs.toNat))⟩ :: s.responses })

/-- `PW2ANG` (R175): `ERR_ANGLEMAX`, then `ERR_NOBOUNDS`, else
`((clamp(us, minUs, maxUs) - minUs) * angleMax) div (maxUs - minUs)`. -/
def Obligations.Pw2angComputes : Prop :=
  ∀ (us angleMax : BitVec 16) (s : State),
    encode (.pw2ang us angleMax) = .portC (0x19#8 ++ angleMax ++ us) ∧
    (s.cfg.hasAngle = false ∨ s.cfg.hasInverse = false →
      ∃ r : Reserved, decode s.cfg (encode (.pw2ang us angleMax)) = .reserved r) ∧
    (angleMax = 0 →
      exec (.pw2ang us angleMax) s = .next { s with responses := ⟨.err .angleMax, 0⟩ :: s.responses }) ∧
    (angleMax ≠ 0 → s.boundsValid = false →
      exec (.pw2ang us angleMax) s = .next { s with responses := ⟨.err .noBounds, 0⟩ :: s.responses }) ∧
    (angleMax ≠ 0 → s.boundsValid = true → s.minUs < s.maxUs →
      exec (.pw2ang us angleMax) s = .next { s with
        responses := ⟨.ok, BitVec.ofNat 32 ((max s.minUs.toNat (min s.maxUs.toNat us.toNat) - s.minUs.toNat) *
          angleMax.toNat / (s.maxUs.toNat - s.minUs.toNat))⟩ :: s.responses })

/-- The results of `PW2PCT` and `PW2ANG` lie in 0 to 100 and 0 to `angleMax`, with the ends at the bounds, which
the spec infers in R173 (a) and R176 (a). -/
def Obligations.InverseResultsStayInRange : Prop :=
  ∀ (us angleMax : BitVec 16) (s : State), s.boundsValid = true → s.minUs < s.maxUs → angleMax ≠ 0 →
    ∃ d e : BitVec 32, answer (.pw2pct us) s = some ⟨.ok, d⟩ ∧ answer (.pw2ang us angleMax) s = some ⟨.ok, e⟩ ∧
      d.toNat ≤ 100 ∧ e.toNat ≤ angleMax.toNat ∧
      (us ≤ s.minUs → d = 0 ∧ e = 0) ∧
      (s.maxUs ≤ us → d.toNat = 100 ∧ e.toNat = angleMax.toNat)

/-- `DUTY2PW` (R178): `ERR_DUTYRANGE` above `DUTY_MAX`, else `(duty * PERIOD_US) div DUTY_MAX`. -/
def Obligations.Duty2pwComputes : Prop :=
  ∀ (duty : BitVec 32) (s : State),
    encode (.duty2pw duty) = .portC (0x1A#8 ++ duty) ∧
    (s.cfg.hasInverse = false → decode s.cfg (encode (.duty2pw duty)) = .reserved .inverseAbsent) ∧
    (8191 < duty.toNat →
      exec (.duty2pw duty) s = .next { s with responses := ⟨.err .dutyRange, 0⟩ :: s.responses }) ∧
    (duty.toNat ≤ 8191 →
      exec (.duty2pw duty) s = .next { s with
        responses := ⟨.ok, BitVec.ofNat 32 (duty.toNat * (1000000 / s.cfg.freqHz) / 8191)⟩ :: s.responses })

/-! ### Sequences of commands, with `$` -/

/-- A percentage there and back: at most what it was, and the same when the width of the bounds is a multiple of 100,
which the spec infers in R173 (c). -/
def Obligations.PercentThereAndBack : Prop :=
  ∀ (p : Nat) (s : State), p ≤ 100 → s.boundsValid = true → s.minUs < s.maxUs → s.cfg.hasInverse = true →
    ∃ (t : State) (d : BitVec 32),
      runTrace true [.cmd (.pct2pw (.num p)), .cmd (.pw2pct .last)] s = .done t ∧ lastData t.responses = some d ∧
      d.toNat ≤ p ∧ ((s.maxUs.toNat - s.minUs.toNat) % 100 = 0 → d.toNat = p)

/-- A pulse width within the bounds, to a percentage and back, never comes back longer, which the spec infers in
R173 (c) and R161. -/
def Obligations.PulseWidthThereAndBackByPercent : Prop :=
  ∀ (us : BitVec 16) (s : State), s.boundsValid = true → s.minUs < s.maxUs → s.cfg.hasInverse = true →
    s.minUs ≤ us → us ≤ s.maxUs →
    ∃ (t : State) (d : BitVec 32),
      runTrace true [.cmd (.pw2pct (.num us.toNat)), .cmd (.pct2pw .last)] s = .done t ∧
      lastData t.responses = some d ∧ d.toNat ≤ us.toNat

/-- A pulse width within the period, to a duty and back, never comes back longer, which the spec infers in R179 (b)
and R161. -/
def Obligations.PulseWidthThereAndBackByDuty : Prop :=
  ∀ (us : BitVec 16) (s : State), us.toNat ≤ s.cfg.periodUs → s.cfg.hasInverse = true →
    ∃ (t : State) (d : BitVec 32),
      runTrace true [.cmd (.pw2duty (.num us.toNat)), .cmd (.duty2pw .last)] s = .done t ∧
      lastData t.responses = some d ∧ d.toNat ≤ us.toNat

/-- `SETPCT` (R84), as the spec infers in R160: two truncations, then the duty is written, when it is at most
`DUTY_MAX`; nothing else of the record changes. -/
def Obligations.SetpctCommandsThePercentage : Prop :=
  ∀ (p : Int) (s : State), -32768 ≤ p → p ≤ 32767 → s.boundsValid = true → s.minUs < s.maxUs →
    let us := s.minUs.toNat + (s.maxUs.toNat - s.minUs.toNat) * (max 0 (min 100 p)).toNat / 100
    let duty := us * 8191 / s.cfg.periodUs
    duty ≤ 8191 →
    ∃ t : State, runPseudo (.setpct (.num p)) s = .done t ∧
      t.cfg = s.cfg ∧ t.presented = s.presented ∧ t.dutyOut.toNat = duty ∧
      ∀ f : Fld, f ≠ .dutyOut → t.fld f = s.fld f

/-- `SETANG` (R84), inferred like the spec's R160, for a configuration with the angle operations. -/
def Obligations.SetangCommandsTheAngle : Prop :=
  ∀ (angle : Int) (angleMax : Nat) (s : State), -32768 ≤ angle → angle ≤ 32767 → 0 < angleMax → angleMax ≤ 65535 →
    s.cfg.hasAngle = true → s.boundsValid = true → s.minUs < s.maxUs →
    let us := s.minUs.toNat + (s.maxUs.toNat - s.minUs.toNat) * (max 0 (min (angleMax : Int) angle)).toNat / angleMax
    let duty := us * 8191 / s.cfg.periodUs
    duty ≤ 8191 →
    ∃ t : State, runPseudo (.setang (.num angle) (.num angleMax)) s = .done t ∧
      t.cfg = s.cfg ∧ t.presented = s.presented ∧ t.dutyOut.toNat = duty ∧
      ∀ f : Fld, f ≠ .dutyOut → t.fld f = s.fld f

/-- `SETPW` of a pulse width that is no longer than the period is accepted (R84, R143 (b), R156). -/
def Obligations.SetpwWithinThePeriod : Prop :=
  ∀ (us : BitVec 16) (s : State), us.toNat ≤ s.cfg.periodUs →
    ∃ t : State, runPseudo (.setpw (.num us.toNat)) s = .done t ∧
      t.dutyOut.toNat = us.toNat * 8191 / s.cfg.periodUs ∧ ∀ f : Fld, f ≠ .dutyOut → t.fld f = s.fld f

/-- A pseudo-operation stops at its first error response (R84). For every pseudo-operation and state, a run that ends in
stopped ends with one error response, after OK responses of commands before it alone; `DRAIN` never does. The record is
unchanged for `SETPW`, `SETPCT` and `SETANG`; for `REBOUND` it is unchanged when the first command was
refused, and otherwise it has the new bounds and is unchanged but for them (R152). Four cases say where the error is:
`SETPCT` without bounds, `SETANG` with `angleMax = 0` and `REBOUND` with the bounds out of order stop at their first
command, `SETPW` of a duty out of range at its last. -/
def Obligations.PseudoStopsAtTheFirstError : Prop :=
  (∀ (p : Pseudo) (s t : State), runPseudo p s = .stopped t →
    ∃ (e : Err) (oks : List Response),
      t.responses = ⟨.err e, 0⟩ :: (oks ++ s.responses) ∧ (∀ r ∈ oks, r.st = .ok) ∧ oks.length < p.expand.length ∧
      t.cfg = s.cfg ∧ t.presented = s.presented ∧
      p ≠ .drain ∧
      ((∃ us : Operand, p = .setpw us) ∨ (∃ x : Operand, p = .setpct x) ∨ (∃ x y : Operand, p = .setang x y) →
        SameRecord t s) ∧
      (∀ minUs maxUs x : Operand, p = .rebound minUs maxUs x →
        (oks = [] → SameRecord t s) ∧
        (oks ≠ [] → ∃ lo hi : BitVec 16,
          minUs.unsigned16 (lastData s.responses) = some lo ∧ maxUs.unsigned16 (lastData s.responses) = some hi ∧
          lo < hi ∧ SameRecord t { s with minUs := lo, maxUs := hi, boundsValid := true }))) ∧
  (∀ (p : Int) (s : State), -32768 ≤ p → p ≤ 32767 → s.boundsValid = false →
    runPseudo (.setpct (.num p)) s = .stopped { s with responses := ⟨.err .noBounds, 0⟩ :: s.responses }) ∧
  (∀ (angle : Int) (s : State), -32768 ≤ angle → angle ≤ 32767 → s.cfg.hasAngle = true →
    runPseudo (.setang (.num angle) (.num 0)) s = .stopped { s with responses := ⟨.err .angleMax, 0⟩ :: s.responses }) ∧
  (∀ (lo hi : BitVec 16) (p : Operand) (s : State), hi ≤ lo →
    runPseudo (.rebound (.num lo.toNat) (.num hi.toNat) p) s =
      .stopped { s with responses := ⟨.err .bounds, 0⟩ :: s.responses }) ∧
  (∀ (us : BitVec 16) (s : State), 8191 < us.toNat * 8191 / s.cfg.periodUs →
    ∃ t : State, runPseudo (.setpw (.num us.toNat)) s = .stopped t ∧ SameRecord t s ∧
      t.responses = [⟨.err .dutyRange, 0⟩, ⟨.ok, BitVec.ofNat 32 (us.toNat * 8191 / s.cfg.periodUs)⟩] ++ s.responses)

/-- The boot sequence of R224, from any state: the decoder holds the present levels, nothing is counted or pending, the
switch is sampled and the bounds are set. -/
def Obligations.BootSynchronises : Prop :=
  ∀ (lo hi : BitVec 16) (a b sw : BitVec 1) (s : State), lo < hi →
    ∃ t : State, runTrace true (bootLines (.num lo.toNat) (.num hi.toNat) a b sw) s = .done t ∧
      t.cfg = s.cfg ∧ t.presented = s.presented ∧
      t.prev = a ++ b ∧ t.acc = 0 ∧ t.pressed = decide (sw = 0) ∧ t.pending = false ∧
      t.minUs = lo ∧ t.maxUs = hi ∧ t.boundsValid = true ∧ t.dutyOut = 0
end

