-- ==== Sys2Proof/Laws/Arith.lean ====
section
/-!
SUPPORT. The primitives of R17 in the ranges where the rules use them.
-/

namespace Sys2Proof

theorem Config.freqHz_bounds (c : Config) : 1 ≤ c.freqHz ∧ c.freqHz ≤ 1000000 := by
  have h := c.wellFormed
  simp only [Config.admissible, Bool.and_eq_true, decide_eq_true_eq] at h
  exact h.1.2

theorem Config.periodUs_pos (c : Config) : 0 < c.periodUs := by
  have h := c.freqHz_bounds
  exact Nat.div_pos h.2 (by omega)

theorem Config.periodUs_le (c : Config) : c.periodUs ≤ 1000000 := Nat.div_le_self _ _

theorem Config.dutyMax_eq : Config.dutyMax = 8191 := rfl

end Sys2Proof

namespace Sys2Proof.Machine

theorem zext_nonneg {n : Nat} (b : BitVec n) : 0 ≤ zext b := Int.natCast_nonneg _

theorem zext_lt {n : Nat} (b : BitVec n) : zext b < 2 ^ n := by
  have h := b.isLt
  unfold zext
  exact_mod_cast h

theorem zext_def {n : Nat} (b : BitVec n) : zext b = (b.toNat : Int) := rfl

theorem zext_lt_zext {n : Nat} (a b : BitVec n) : zext a < zext b ↔ a < b := by
  simp [zext, BitVec.lt_def]

theorem enc_toNat {n : Nat} {v : Int} (h0 : 0 ≤ v) (h1 : v < 2 ^ n) : ((enc n v).toNat : Int) = v := by
  have h2 : v % (2 : Int) ^ n = v := Int.emod_eq_of_lt h0 h1
  simp [enc, BitVec.toNat_ofInt, h2, Int.toNat_of_nonneg h0]

theorem zext_enc {n : Nat} {v : Int} (h0 : 0 ≤ v) (h1 : v < 2 ^ n) : zext (enc n v) = v := enc_toNat h0 h1

theorem enc_natCast (n m : Nat) : enc n (m : Int) = BitVec.ofNat n m := BitVec.ofInt_natCast n m

/-- `enc` then `sext` is the wrap `wrapS_N` of R17: the congruent integer of the signed range. -/
theorem sext_enc (n : Nat) (v : Int) : sext (enc n v) = v.bmod (2 ^ n) := BitVec.toInt_ofInt v

theorem enc_sext {n : Nat} (b : BitVec n) : enc n (sext b) = b := BitVec.ofInt_toInt

/-- `div` where R17 defines it. -/
theorem quot_eq {x y : Int} (hx : 0 ≤ x) (hy : 0 < y) : quot x y = x / y := by simp [quot, hx, hy]

theorem clamp_of_lt {v lo hi : Int} (h : v < lo) : clamp v lo hi = lo := by simp [clamp, h]

theorem clamp_of_mem {v lo hi : Int} (h1 : lo ≤ v) (h2 : v ≤ hi) : clamp v lo hi = v := by
  simp [clamp, Int.not_lt.mpr h1, Int.not_lt.mpr h2]

theorem clamp_of_gt {v lo hi : Int} (h1 : lo ≤ hi) (h : hi < v) : clamp v lo hi = hi := by
  have h2 : ¬ v < lo := by omega
  simp [clamp, h2, h]

/-- A clamped value lies between the ends. -/
theorem clamp_mem {v lo hi : Int} (h : lo ≤ hi) : lo ≤ clamp v lo hi ∧ clamp v lo hi ≤ hi := by
  unfold clamp
  split
  · omega
  · split <;> omega

theorem clamp_mono {u v lo hi : Int} (h : lo ≤ hi) (huv : u ≤ v) : clamp u lo hi ≤ clamp v lo hi := by
  unfold clamp
  split <;> split <;> (try split) <;> omega

/-- A floor of a fraction `c / w` of `r` lies between 0 and `r` (R147 (b)). -/
theorem fraction_mem {r c w : Int} (hr : 0 ≤ r) (hc : 0 ≤ c) (hw : 0 < w) (hcw : c ≤ w) :
    0 ≤ r * c / w ∧ r * c / w ≤ r := by
  constructor
  · exact Int.ediv_nonneg (Int.mul_nonneg hr hc) (by omega)
  · have h1 : r * c ≤ r * w := Int.mul_le_mul_of_nonneg_left hcw hr
    have h2 := Int.ediv_le_ediv hw h1
    rwa [Int.mul_ediv_cancel _ (by omega)] at h2

/-- `zext` of a word is at most the largest value of its width. -/
theorem zext16_le (b : Word16) : zext b ≤ 65535 := by
  have h := zext_lt b
  omega

theorem boolResult_mem (b : Bool) : boolResult b = 0 ∨ boolResult b = 1 := by cases b <;> simp [boolResult]

end Sys2Proof.Machine
end

