-- ==== Sys2Proof/Laws/Decode.lean ====
section
/-!
SUPPORT. The fields of an assembled command word, and the opcode map read both ways.
-/

namespace Sys2Proof

/-- Concatenation as arithmetic. -/
theorem append_toNat {m n : Nat} (a : BitVec m) (b : BitVec n) : (a ++ b).toNat = a.toNat * 2 ^ n + b.toNat := by
  rw [BitVec.toNat_append, ← Nat.shiftLeft_add_eq_or_of_lt b.isLt, Nat.shiftLeft_eq]

/-- A slice as arithmetic. -/
theorem extract_toNat {n : Nat} (w : BitVec n) (start len : Nat) :
    (w.extractLsb' start len).toNat = w.toNat / 2 ^ start % 2 ^ len := by
  rw [BitVec.extractLsb'_toNat, Nat.shiftRight_eq_div_pow]

/-! ### Fields of an assembled word -/

@[simp] theorem opcField_commandWord (o : Opcode) (b a : Word16) : opcField (commandWord o b a) = o.bits := by
  apply BitVec.eq_of_toNat_eq
  rw [opcField, commandWord, extract_toNat, append_toNat, append_toNat]
  have := o.bits.isLt; have := a.isLt; have := b.isLt
  omega

@[simp] theorem fieldB_commandWord (o : Opcode) (b a : Word16) : fieldB (commandWord o b a) = b := by
  apply BitVec.eq_of_toNat_eq
  rw [fieldB, commandWord, extract_toNat, append_toNat, append_toNat]
  have := o.bits.isLt; have := a.isLt; have := b.isLt
  omega

@[simp] theorem fieldA_commandWord (o : Opcode) (b a : Word16) : fieldA (commandWord o b a) = a := by
  apply BitVec.eq_of_toNat_eq
  rw [fieldA, commandWord, extract_toNat, append_toNat, append_toNat]
  have := o.bits.isLt; have := a.isLt; have := b.isLt
  omega

@[simp] theorem fieldBA_commandWord_zero (o : Opcode) : fieldBA (commandWord o 0#16 0#16) = 0#32 := by
  apply BitVec.eq_of_toNat_eq
  rw [fieldBA, commandWord, extract_toNat, append_toNat, append_toNat]
  have := o.bits.isLt
  simp
  omega

@[simp] theorem opcField_commandWordW (o : Opcode) (d : Word32) : opcField (commandWordW o d) = o.bits := by
  apply BitVec.eq_of_toNat_eq
  rw [opcField, commandWordW, extract_toNat, append_toNat]
  have := o.bits.isLt; have := d.isLt
  omega

@[simp] theorem fieldBA_commandWordW (o : Opcode) (d : Word32) : fieldBA (commandWordW o d) = d := by
  apply BitVec.eq_of_toNat_eq
  rw [fieldBA, commandWordW, extract_toNat, append_toNat]
  have := o.bits.isLt; have := d.isLt
  omega

/-! ### Every word is made of its fields -/

theorem commandWord_fields {w : CommandWord} {o : Opcode} (h : opcField w = o.bits) :
    commandWord o (fieldB w) (fieldA w) = w := by
  apply BitVec.eq_of_toNat_eq
  rw [commandWord, append_toNat, append_toNat, ← h, opcField, fieldA, fieldB, extract_toNat, extract_toNat,
    extract_toNat]
  have := w.isLt
  omega

theorem commandWordW_fields {w : CommandWord} {o : Opcode} (h : opcField w = o.bits) :
    commandWordW o (fieldBA w) = w := by
  apply BitVec.eq_of_toNat_eq
  rw [commandWordW, append_toNat, ← h, opcField, fieldBA, extract_toNat, extract_toNat]
  have := w.isLt
  omega

theorem fields_of_fieldBA_zero {w : CommandWord} (h : fieldBA w = 0) : fieldA w = 0 ∧ fieldB w = 0 := by
  have h1 := congrArg BitVec.toNat h
  rw [fieldBA, extract_toNat] at h1
  simp at h1
  constructor
  · apply BitVec.eq_of_toNat_eq
    rw [fieldA, extract_toNat]
    simp
    omega
  · apply BitVec.eq_of_toNat_eq
    rw [fieldB, extract_toNat]
    simp
    omega

/-! ### The opcode map -/

theorem ofBits_bits (o : Opcode) : Opcode.ofBits o.bits = some o := by cases o <;> rfl

/-- The opcode map has one value for each command. -/
theorem ofBits_eq_some : ∀ (b : BitVec 8) (o : Opcode), Opcode.ofBits b = some o → b = o.bits := by
  intro b o
  cases o <;> revert b <;> decide

/-- A word of a known command decodes by the checks of R79 (b) to (e) alone. -/
theorem decodeCommand_of_known {c : Config} {w : CommandWord} {o : Opcode} (h : opcField w = o.bits) :
    decodeCommand c w = decodeKnown c o w := by
  rw [decodeCommand, h, ofBits_bits]

end Sys2Proof
end

