-- ==== Sys2Proof/Laws/State.lean ====
section
/-!
SUPPORT. One lemma for each field and each named update of the state: what the field holds after the update.
-/

namespace Sys2Proof.Machine

variable (s : State)

/-! ### notePending -/

@[simp] theorem State.notePending_cfg (on : Bool) : (s.notePending on).cfg = s.cfg := rfl
@[simp] theorem State.notePending_prev (on : Bool) : (s.notePending on).prev = s.prev := rfl
@[simp] theorem State.notePending_acc (on : Bool) : (s.notePending on).acc = s.acc := rfl
@[simp] theorem State.notePending_pressed (on : Bool) : (s.notePending on).pressed = s.pressed := rfl
@[simp] theorem State.notePending_pending (on : Bool) : (s.notePending on).pending = (s.pending || on) := rfl
@[simp] theorem State.notePending_minUs (on : Bool) : (s.notePending on).minUs = s.minUs := rfl
@[simp] theorem State.notePending_maxUs (on : Bool) : (s.notePending on).maxUs = s.maxUs := rfl
@[simp] theorem State.notePending_boundsValid (on : Bool) : (s.notePending on).boundsValid = s.boundsValid := rfl
@[simp] theorem State.notePending_dutyOut (on : Bool) : (s.notePending on).dutyOut = s.dutyOut := rfl
@[simp] theorem State.notePending_presented (on : Bool) : (s.notePending on).presented = s.presented := rfl
@[simp] theorem State.notePending_responses (on : Bool) : (s.notePending on).responses = s.responses := rfl

/-! ### clearPending -/

@[simp] theorem State.clearPending_cfg : (s.clearPending).cfg = s.cfg := rfl
@[simp] theorem State.clearPending_prev : (s.clearPending).prev = s.prev := rfl
@[simp] theorem State.clearPending_acc : (s.clearPending).acc = s.acc := rfl
@[simp] theorem State.clearPending_pressed : (s.clearPending).pressed = s.pressed := rfl
@[simp] theorem State.clearPending_pending : (s.clearPending).pending = false := rfl
@[simp] theorem State.clearPending_minUs : (s.clearPending).minUs = s.minUs := rfl
@[simp] theorem State.clearPending_maxUs : (s.clearPending).maxUs = s.maxUs := rfl
@[simp] theorem State.clearPending_boundsValid : (s.clearPending).boundsValid = s.boundsValid := rfl
@[simp] theorem State.clearPending_dutyOut : (s.clearPending).dutyOut = s.dutyOut := rfl
@[simp] theorem State.clearPending_presented : (s.clearPending).presented = s.presented := rfl
@[simp] theorem State.clearPending_responses : (s.clearPending).responses = s.responses := rfl

/-! ### samplePressed -/

@[simp] theorem State.samplePressed_cfg (sw : Level) : (s.samplePressed sw).cfg = s.cfg := rfl
@[simp] theorem State.samplePressed_prev (sw : Level) : (s.samplePressed sw).prev = s.prev := rfl
@[simp] theorem State.samplePressed_acc (sw : Level) : (s.samplePressed sw).acc = s.acc := rfl
@[simp] theorem State.samplePressed_pressed (sw : Level) : (s.samplePressed sw).pressed = decide (sw = 0) := rfl
@[simp] theorem State.samplePressed_pending (sw : Level) : (s.samplePressed sw).pending = s.pending := rfl
@[simp] theorem State.samplePressed_minUs (sw : Level) : (s.samplePressed sw).minUs = s.minUs := rfl
@[simp] theorem State.samplePressed_maxUs (sw : Level) : (s.samplePressed sw).maxUs = s.maxUs := rfl
@[simp] theorem State.samplePressed_boundsValid (sw : Level) : (s.samplePressed sw).boundsValid = s.boundsValid := rfl
@[simp] theorem State.samplePressed_dutyOut (sw : Level) : (s.samplePressed sw).dutyOut = s.dutyOut := rfl
@[simp] theorem State.samplePressed_presented (sw : Level) : (s.samplePressed sw).presented = s.presented := rfl
@[simp] theorem State.samplePressed_responses (sw : Level) : (s.samplePressed sw).responses = s.responses := rfl

/-! ### respond -/

@[simp] theorem State.respond_cfg (r : Response) : (s.respond r).cfg = s.cfg := rfl
@[simp] theorem State.respond_prev (r : Response) : (s.respond r).prev = s.prev := rfl
@[simp] theorem State.respond_acc (r : Response) : (s.respond r).acc = s.acc := rfl
@[simp] theorem State.respond_pressed (r : Response) : (s.respond r).pressed = s.pressed := rfl
@[simp] theorem State.respond_pending (r : Response) : (s.respond r).pending = s.pending := rfl
@[simp] theorem State.respond_minUs (r : Response) : (s.respond r).minUs = s.minUs := rfl
@[simp] theorem State.respond_maxUs (r : Response) : (s.respond r).maxUs = s.maxUs := rfl
@[simp] theorem State.respond_boundsValid (r : Response) : (s.respond r).boundsValid = s.boundsValid := rfl
@[simp] theorem State.respond_dutyOut (r : Response) : (s.respond r).dutyOut = s.dutyOut := rfl
@[simp] theorem State.respond_presented (r : Response) : (s.respond r).presented = s.presented := rfl
@[simp] theorem State.respond_responses (r : Response) : (s.respond r).responses = r :: s.responses := rfl

/-! ### classify -/

@[simp] theorem State.classify_cfg (n : LevelPair) : (s.classify n).cfg = s.cfg := rfl
@[simp] theorem State.classify_prev (n : LevelPair) : (s.classify n).prev = n := rfl
@[simp] theorem State.classify_acc (n : LevelPair) : (s.classify n).acc = accumulate s.acc (delta (transitionKey s.prev n)) := rfl
@[simp] theorem State.classify_pressed (n : LevelPair) : (s.classify n).pressed = s.pressed := rfl
@[simp] theorem State.classify_pending (n : LevelPair) : (s.classify n).pending = true := rfl
@[simp] theorem State.classify_minUs (n : LevelPair) : (s.classify n).minUs = s.minUs := rfl
@[simp] theorem State.classify_maxUs (n : LevelPair) : (s.classify n).maxUs = s.maxUs := rfl
@[simp] theorem State.classify_boundsValid (n : LevelPair) : (s.classify n).boundsValid = s.boundsValid := rfl
@[simp] theorem State.classify_dutyOut (n : LevelPair) : (s.classify n).dutyOut = s.dutyOut := rfl
@[simp] theorem State.classify_presented (n : LevelPair) : (s.classify n).presented = s.presented := rfl
@[simp] theorem State.classify_responses (n : LevelPair) : (s.classify n).responses = s.responses := rfl

/-! ### zeroAcc -/

@[simp] theorem State.zeroAcc_cfg : (s.zeroAcc).cfg = s.cfg := rfl
@[simp] theorem State.zeroAcc_prev : (s.zeroAcc).prev = s.prev := rfl
@[simp] theorem State.zeroAcc_acc : (s.zeroAcc).acc = 0 := rfl
@[simp] theorem State.zeroAcc_pressed : (s.zeroAcc).pressed = s.pressed := rfl
@[simp] theorem State.zeroAcc_pending : (s.zeroAcc).pending = s.pending := rfl
@[simp] theorem State.zeroAcc_minUs : (s.zeroAcc).minUs = s.minUs := rfl
@[simp] theorem State.zeroAcc_maxUs : (s.zeroAcc).maxUs = s.maxUs := rfl
@[simp] theorem State.zeroAcc_boundsValid : (s.zeroAcc).boundsValid = s.boundsValid := rfl
@[simp] theorem State.zeroAcc_dutyOut : (s.zeroAcc).dutyOut = s.dutyOut := rfl
@[simp] theorem State.zeroAcc_presented : (s.zeroAcc).presented = s.presented := rfl
@[simp] theorem State.zeroAcc_responses : (s.zeroAcc).responses = s.responses := rfl

/-! ### setBounds -/

@[simp] theorem State.setBounds_cfg (lo hi : Word16) : (s.setBounds lo hi).cfg = s.cfg := rfl
@[simp] theorem State.setBounds_prev (lo hi : Word16) : (s.setBounds lo hi).prev = s.prev := rfl
@[simp] theorem State.setBounds_acc (lo hi : Word16) : (s.setBounds lo hi).acc = s.acc := rfl
@[simp] theorem State.setBounds_pressed (lo hi : Word16) : (s.setBounds lo hi).pressed = s.pressed := rfl
@[simp] theorem State.setBounds_pending (lo hi : Word16) : (s.setBounds lo hi).pending = s.pending := rfl
@[simp] theorem State.setBounds_minUs (lo hi : Word16) : (s.setBounds lo hi).minUs = lo := rfl
@[simp] theorem State.setBounds_maxUs (lo hi : Word16) : (s.setBounds lo hi).maxUs = hi := rfl
@[simp] theorem State.setBounds_boundsValid (lo hi : Word16) : (s.setBounds lo hi).boundsValid = true := rfl
@[simp] theorem State.setBounds_dutyOut (lo hi : Word16) : (s.setBounds lo hi).dutyOut = s.dutyOut := rfl
@[simp] theorem State.setBounds_presented (lo hi : Word16) : (s.setBounds lo hi).presented = s.presented := rfl
@[simp] theorem State.setBounds_responses (lo hi : Word16) : (s.setBounds lo hi).responses = s.responses := rfl

/-! ### setDuty -/

@[simp] theorem State.setDuty_cfg (d : BitVec Config.dutyBits) : (s.setDuty d).cfg = s.cfg := rfl
@[simp] theorem State.setDuty_prev (d : BitVec Config.dutyBits) : (s.setDuty d).prev = s.prev := rfl
@[simp] theorem State.setDuty_acc (d : BitVec Config.dutyBits) : (s.setDuty d).acc = s.acc := rfl
@[simp] theorem State.setDuty_pressed (d : BitVec Config.dutyBits) : (s.setDuty d).pressed = s.pressed := rfl
@[simp] theorem State.setDuty_pending (d : BitVec Config.dutyBits) : (s.setDuty d).pending = s.pending := rfl
@[simp] theorem State.setDuty_minUs (d : BitVec Config.dutyBits) : (s.setDuty d).minUs = s.minUs := rfl
@[simp] theorem State.setDuty_maxUs (d : BitVec Config.dutyBits) : (s.setDuty d).maxUs = s.maxUs := rfl
@[simp] theorem State.setDuty_boundsValid (d : BitVec Config.dutyBits) : (s.setDuty d).boundsValid = s.boundsValid := rfl
@[simp] theorem State.setDuty_dutyOut (d : BitVec Config.dutyBits) : (s.setDuty d).dutyOut = d := rfl
@[simp] theorem State.setDuty_presented (d : BitVec Config.dutyBits) : (s.setDuty d).presented = s.presented := rfl
@[simp] theorem State.setDuty_responses (d : BitVec Config.dutyBits) : (s.setDuty d).responses = s.responses := rfl

/-! ### clearRecord -/

@[simp] theorem State.clearRecord_cfg : (s.clearRecord).cfg = s.cfg := rfl
@[simp] theorem State.clearRecord_prev : (s.clearRecord).prev = 0 := rfl
@[simp] theorem State.clearRecord_acc : (s.clearRecord).acc = 0 := rfl
@[simp] theorem State.clearRecord_pressed : (s.clearRecord).pressed = false := rfl
@[simp] theorem State.clearRecord_pending : (s.clearRecord).pending = false := rfl
@[simp] theorem State.clearRecord_minUs : (s.clearRecord).minUs = 0 := rfl
@[simp] theorem State.clearRecord_maxUs : (s.clearRecord).maxUs = 0 := rfl
@[simp] theorem State.clearRecord_boundsValid : (s.clearRecord).boundsValid = false := rfl
@[simp] theorem State.clearRecord_dutyOut : (s.clearRecord).dutyOut = 0 := rfl
@[simp] theorem State.clearRecord_presented : (s.clearRecord).presented = s.presented := rfl
@[simp] theorem State.clearRecord_responses : (s.clearRecord).responses = s.responses := rfl

/-! ### consume -/

@[simp] theorem State.consume_cfg : (s.consume).cfg = s.cfg := rfl
@[simp] theorem State.consume_prev : (s.consume).prev = s.prev := rfl
@[simp] theorem State.consume_acc : (s.consume).acc = s.acc := rfl
@[simp] theorem State.consume_pressed : (s.consume).pressed = s.pressed := rfl
@[simp] theorem State.consume_pending : (s.consume).pending = s.pending := rfl
@[simp] theorem State.consume_minUs : (s.consume).minUs = s.minUs := rfl
@[simp] theorem State.consume_maxUs : (s.consume).maxUs = s.maxUs := rfl
@[simp] theorem State.consume_boundsValid : (s.consume).boundsValid = s.boundsValid := rfl
@[simp] theorem State.consume_dutyOut : (s.consume).dutyOut = s.dutyOut := rfl
@[simp] theorem State.consume_presented : (s.consume).presented = s.presented.tail := rfl
@[simp] theorem State.consume_responses : (s.consume).responses = s.responses := rfl

/-! ### present -/

@[simp] theorem State.present_cfg (w : PortWord) : (s.present w).cfg = s.cfg := rfl
@[simp] theorem State.present_prev (w : PortWord) : (s.present w).prev = s.prev := rfl
@[simp] theorem State.present_acc (w : PortWord) : (s.present w).acc = s.acc := rfl
@[simp] theorem State.present_pressed (w : PortWord) : (s.present w).pressed = s.pressed := rfl
@[simp] theorem State.present_pending (w : PortWord) : (s.present w).pending = s.pending := rfl
@[simp] theorem State.present_minUs (w : PortWord) : (s.present w).minUs = s.minUs := rfl
@[simp] theorem State.present_maxUs (w : PortWord) : (s.present w).maxUs = s.maxUs := rfl
@[simp] theorem State.present_boundsValid (w : PortWord) : (s.present w).boundsValid = s.boundsValid := rfl
@[simp] theorem State.present_dutyOut (w : PortWord) : (s.present w).dutyOut = s.dutyOut := rfl
@[simp] theorem State.present_presented (w : PortWord) : (s.present w).presented = w :: s.presented := rfl
@[simp] theorem State.present_responses (w : PortWord) : (s.present w).responses = s.responses := rfl

end Sys2Proof.Machine
end

