-- ==== Sys2Proof/Laws/Ops.lean ====
section
/-!
SUPPORT. What each shared operation can do, said once: responses, errors, the bounds check, the transition table and the
two shapes of conversion.
-/

namespace Sys2Proof.Machine

/-! ### Responses -/

theorem succeed_eq (v : Int) (s : State) : succeed v s = .next (s.respond ⟨.ok, enc 32 v⟩) := rfl

theorem raise_eq (e : Err) (s : State) : raise e s = .next (s.respond ⟨.err e, 0⟩) := rfl

theorem errCode_mem (e : Err) : 1 ≤ (errCode e).toNat ∧ (errCode e).toNat ≤ 5 := by cases e <;> decide

/-- A command that reads the bounds succeeds when there are bounds. -/
theorem withBounds_of_valid {s : State} (v : Int) (h : s.boundsValid = true) : withBounds s v = succeed v s := by
  simp [withBounds, h]

/-- A command that reads the bounds raises `ERR_NOBOUNDS` when there are none. -/
theorem withBounds_of_invalid {s : State} (v : Int) (h : s.boundsValid = false) :
    withBounds s v = raise .noBounds s := by
  simp [withBounds, h]

/-- All that a command that reads the bounds can do. -/
theorem withBounds_next {s t : State} {v : Int} (h : withBounds s v = .next t) :
    (s.boundsValid = true ∧ t = s.respond ⟨.ok, enc 32 v⟩) ∨
      (s.boundsValid = false ∧ t = s.respond ⟨.err .noBounds, 0⟩) := by
  cases hb : s.boundsValid with
  | true =>
    rw [withBounds_of_valid v hb, succeed_eq] at h
    exact .inl ⟨rfl, (Host.Outcome.next.inj h).symm⟩
  | false =>
    rw [withBounds_of_invalid v hb, raise_eq] at h
    exact .inr ⟨rfl, (Host.Outcome.next.inj h).symm⟩

/-! ### The transition table -/

/-- A delta lies between -2 and 2 (R102). -/
theorem delta_mem : ∀ k : Key, -2 ≤ delta k ∧ delta k ≤ 2 := by decide

/-- The delta of equal level pairs is 0 (R103, R105). -/
theorem delta_same : ∀ p : LevelPair, delta (transitionKey p p) = 0 := by decide

/-- The delta of a classified transition is not 0 (R103). -/
theorem delta_ne_zero : ∀ p n : LevelPair, n ≠ p → delta (transitionKey p n) ≠ 0 := by decide

/-- Adding 0 leaves the accumulator. -/
theorem accumulate_zero (a : BitVec Config.accW) : accumulate a 0 = a := by
  simp [accumulate, enc_sext]

/-- Adding to the accumulator is addition of bit patterns. -/
theorem accumulate_eq_add (a : BitVec Config.accW) (d : Int) : accumulate a d = a + BitVec.ofInt Config.accW d := by
  simp [accumulate, enc, sext, BitVec.ofInt_add, BitVec.ofInt_toInt]

/-- The accumulator wraps at its width (R24). -/
theorem sext_accumulate (a : BitVec Config.accW) (d : Int) :
    sext (accumulate a d) = (sext a + d).bmod (2 ^ Config.accW) := sext_enc _ _

/-! ### Conversions, with the bounds in order (R30) -/

/-- A fraction of the bounds, as a formula over the integers (R146, R149). -/
theorem fractionToPulseWidth_eq {s : State} {c whole : Int} (h : s.minUs < s.maxUs) (hc : 0 ≤ c) (hw : 0 < whole) :
    fractionToPulseWidth s c whole = zext s.minUs + (zext s.maxUs - zext s.minUs) * c / whole := by
  have h1 := (zext_lt_zext s.minUs s.maxUs).mpr h
  rw [fractionToPulseWidth, quot_eq (Int.mul_nonneg (by omega) hc) hw]

/-- A fraction of the bounds lies within them (R147 (b), R150 (b)). -/
theorem fractionToPulseWidth_mem {s : State} {c whole : Int} (h : s.minUs < s.maxUs) (hc : 0 ≤ c) (hw : 0 < whole)
    (hcw : c ≤ whole) :
    zext s.minUs ≤ fractionToPulseWidth s c whole ∧ fractionToPulseWidth s c whole ≤ zext s.maxUs := by
  have h1 := (zext_lt_zext s.minUs s.maxUs).mpr h
  rw [fractionToPulseWidth_eq h hc hw]
  have h2 := fraction_mem (r := zext s.maxUs - zext s.minUs) (by omega) hc hw hcw
  omega

/-- The fraction at a pulse width, as a formula over the integers (R172, R175). -/
theorem pulseWidthToFraction_eq {s : State} {us whole : Int} (h : s.minUs < s.maxUs) (hw : 0 ≤ whole) :
    pulseWidthToFraction s us whole =
      (clamp us (zext s.minUs) (zext s.maxUs) - zext s.minUs) * whole / (zext s.maxUs - zext s.minUs) := by
  have h1 := (zext_lt_zext s.minUs s.maxUs).mpr h
  have h2 := clamp_mem (v := us) (Int.le_of_lt h1)
  rw [pulseWidthToFraction, quot_eq (Int.mul_nonneg (by omega) hw) (by omega)]

/-- The duty of a pulse width, as a formula over the naturals (R142). -/
theorem pulseWidthToDuty_eq {dutyMax periodUs : Nat} (us : Nat) (h : 0 < periodUs) :
    pulseWidthToDuty dutyMax periodUs (us : Int) = ((us * dutyMax / periodUs : Nat) : Int) := by
  rw [pulseWidthToDuty, quot_eq (by positivity) (by exact_mod_cast h)]
  push_cast
  rfl

/-- The pulse width of a duty, as a formula over the naturals (R178). -/
theorem dutyToPulseWidth_eq {dutyMax periodUs : Nat} (duty : Nat) (h : 0 < dutyMax) :
    dutyToPulseWidth dutyMax periodUs (duty : Int) = ((duty * periodUs / dutyMax : Nat) : Int) := by
  rw [dutyToPulseWidth, quot_eq (by positivity) (by exact_mod_cast h)]
  push_cast
  rfl

end Sys2Proof.Machine
end

