-- ==== Sys2Proof/Laws/PerInstr.lean ====
section
/-!
SUPPORT. Statements about every instruction, one lemma for each constructor.
-/

/-- The word of an operation is a word of its agent's port (R82, R198). -/
def Sys2Proof.Laws.EncodePort.Statement (i : Sys2Proof.Instr) : Prop := (Sys2Proof.encode i).agent = i.agent

open Sys2Proof

theorem Sys2Proof.Laws.EncodePort.edge (a b : Level) : Sys2Proof.Laws.EncodePort.Statement (.edge a b) := rfl
theorem Sys2Proof.Laws.EncodePort.btn (sw : Level) : Sys2Proof.Laws.EncodePort.Statement (.btn sw) := rfl
theorem Sys2Proof.Laws.EncodePort.reset : Sys2Proof.Laws.EncodePort.Statement .reset := rfl
theorem Sys2Proof.Laws.EncodePort.haspending : Sys2Proof.Laws.EncodePort.Statement .haspending := rfl
theorem Sys2Proof.Laws.EncodePort.take : Sys2Proof.Laws.EncodePort.Statement .take := rfl
theorem Sys2Proof.Laws.EncodePort.ispressed : Sys2Proof.Laws.EncodePort.Statement .ispressed := rfl
theorem Sys2Proof.Laws.EncodePort.ack : Sys2Proof.Laws.EncodePort.Statement .ack := rfl
theorem Sys2Proof.Laws.EncodePort.pw2duty (us : Word16) : Sys2Proof.Laws.EncodePort.Statement (.pw2duty us) := rfl
theorem Sys2Proof.Laws.EncodePort.pct2pw (p : Word16) : Sys2Proof.Laws.EncodePort.Statement (.pct2pw p) := rfl
theorem Sys2Proof.Laws.EncodePort.ang2pw (angle angleMax : Word16) : Sys2Proof.Laws.EncodePort.Statement (.ang2pw angle angleMax) := rfl
theorem Sys2Proof.Laws.EncodePort.setbounds (minUs maxUs : Word16) : Sys2Proof.Laws.EncodePort.Statement (.setbounds minUs maxUs) := rfl
theorem Sys2Proof.Laws.EncodePort.wrduty (duty : Word32) : Sys2Proof.Laws.EncodePort.Statement (.wrduty duty) := rfl
theorem Sys2Proof.Laws.EncodePort.pw2pct (us : Word16) : Sys2Proof.Laws.EncodePort.Statement (.pw2pct us) := rfl
theorem Sys2Proof.Laws.EncodePort.pw2ang (us angleMax : Word16) : Sys2Proof.Laws.EncodePort.Statement (.pw2ang us angleMax) := rfl
theorem Sys2Proof.Laws.EncodePort.duty2pw (duty : Word32) : Sys2Proof.Laws.EncodePort.Statement (.duty2pw duty) := rfl
end

