-- ==== Sys2Proof/Laws/Step.lean ====
section
/-!
SUPPORT. What one step can do, said once, and what each operation's meaning is, said once.
-/

namespace Sys2Proof.Machine

theorem step_idle {s : State} (h : s.presented = []) : step s = .next s := by
  simp [step, State.nextWord, h]

theorem step_word {s : State} {w : PortWord} {ws : List PortWord} (h : s.presented = w :: ws) :
    step s = match decode s.cfg w with
      | .op i => exec i s.consume
      | .noEvent => .next s.consume
      | .reserved _ => raise .reserved s.consume := by
  rw [step, State.nextWord, h]
  rfl

/-- A word presented just now is the one that the step takes. -/
theorem step_present (s : State) (w : PortWord) :
    step (s.present w) = match decode s.cfg w with
      | .op i => exec i s
      | .noEvent => .next s
      | .reserved _ => raise .reserved s :=
  rfl

/-- All that a step can do when it answers a next state. -/
theorem step_cases {s t : State} (h : step s = .next t) :
    (s.presented = [] ∧ t = s) ∨
      ∃ w ws, s.presented = w :: ws ∧
        ((∃ i, decode s.cfg w = .op i ∧ exec i s.consume = .next t) ∨
          (decode s.cfg w = .noEvent ∧ t = s.consume) ∨
          (∃ r, decode s.cfg w = .reserved r ∧ t = s.consume.respond ⟨.err .reserved, 0⟩)) := by
  cases hp : s.presented with
  | nil =>
    rw [step_idle hp] at h
    exact .inl ⟨rfl, (Host.Outcome.next.inj h).symm⟩
  | cons w ws =>
    rw [step_word hp] at h
    refine .inr ⟨w, ws, rfl, ?_⟩
    cases hd : decode s.cfg w with
    | op i => rw [hd] at h; exact .inl ⟨i, rfl, h⟩
    | noEvent => rw [hd] at h; exact .inr (.inl ⟨rfl, (Host.Outcome.next.inj h).symm⟩)
    | reserved r => rw [hd] at h; exact .inr (.inr ⟨r, rfl, (Host.Outcome.next.inj h).symm⟩)

/-! ### Checks of an operand -/

/-- `SETBOUNDS` with the bounds in order. -/
theorem execSetbounds_of_lt {lo hi : Word16} {s : State} (h : lo < hi) :
    execSetbounds lo hi s = succeed 0 (s.setBounds lo hi) := by
  have h1 := (zext_lt_zext lo hi).mpr h
  simp [execSetbounds, Int.not_le.mpr h1]

/-- `SETBOUNDS` with the bounds out of order. -/
theorem execSetbounds_of_ge {lo hi : Word16} {s : State} (h : ¬ lo < hi) : execSetbounds lo hi s = raise .bounds s := by
  have h1 : zext hi ≤ zext lo := by rwa [← zext_lt_zext, Int.not_lt] at h
  simp [execSetbounds, h1]

/-- `WRDUTY` in range. -/
theorem execWrduty_of_le {d : Word32} {s : State} (h : d.toNat ≤ Config.dutyMax) :
    execWrduty d s = succeed 0 (s.setDuty (d.setWidth Config.dutyBits)) := by
  have h1 : ¬ ((Config.dutyMax : Int) < zext d) := by simpa [zext] using h
  have h2 : enc Config.dutyBits (zext d) = d.setWidth Config.dutyBits := by
    rw [zext_def, enc_natCast]
    exact BitVec.eq_of_toNat_eq (by simp)
  simp [execWrduty, h1, h2]

/-- `WRDUTY` out of range. -/
theorem execWrduty_of_gt {d : Word32} {s : State} (h : Config.dutyMax < d.toNat) :
    execWrduty d s = raise .dutyRange s := by
  have h1 : (Config.dutyMax : Int) < zext d := by simpa [zext] using h
  simp [execWrduty, h1]

end Sys2Proof.Machine
end

