-- ==== Sys2Proof/Laws/Trace.lean ====
section
/-!
SUPPORT. When an operand of a trace line can be assembled, and to which field.
-/

namespace Sys2Proof.Machine

theorem asUnsigned_some {n : Nat} {v : Int} (h0 : 0 ≤ v) (h1 : v < 2 ^ n) : asUnsigned n v = some (enc n v) :=
  if_pos ⟨h0, h1⟩

theorem asSigned_some {n : Nat} {v : Int} (h0 : -(2 ^ (n - 1)) ≤ v) (h1 : v < 2 ^ (n - 1)) :
    asSigned n v = some (enc n v) :=
  if_pos ⟨h0, h1⟩

/-- A numeral of an unsigned 16-bit operand. -/
theorem unsigned16_num {v : Int} (h0 : 0 ≤ v) (h1 : v ≤ 65535) (last : Option Word32) :
    (Operand.num v).unsigned16 last = some (enc 16 v) := by
  rw [Operand.unsigned16, Operand.value, Option.bind_some]
  exact asUnsigned_some h0 (by norm_num; omega)

/-- A numeral of a signed 16-bit operand. -/
theorem signed16_num {v : Int} (h0 : -32768 ≤ v) (h1 : v ≤ 32767) (last : Option Word32) :
    (Operand.num v).signed16 last = some (enc 16 v) := by
  rw [Operand.signed16, Operand.value, Option.bind_some]
  exact asSigned_some (by norm_num; exact h0) (by norm_num; omega)

/-- `$` as an unsigned 16-bit operand. -/
theorem unsigned16_last {d : Word32} (h : d.toNat ≤ 65535) : Operand.last.unsigned16 (some d) = some (d.setWidth 16) := by
  have h1 : enc 16 (zext d) = d.setWidth 16 := by
    rw [zext_def, enc_natCast]
    exact BitVec.eq_of_toNat_eq (by simp)
  have h2 : zext d ≤ 65535 := by rw [zext_def]; omega
  rw [Operand.unsigned16, Operand.value, Option.map_some, Option.bind_some,
    asUnsigned_some (zext_nonneg d) (by norm_num; omega), h1]

/-- `$` as a signed 16-bit operand. -/
theorem signed16_last {d : Word32} (h : d.toNat ≤ 32767) : Operand.last.signed16 (some d) = some (d.setWidth 16) := by
  have h1 : enc 16 (zext d) = d.setWidth 16 := by
    rw [zext_def, enc_natCast]
    exact BitVec.eq_of_toNat_eq (by simp)
  have h2 : zext d ≤ 32767 := by rw [zext_def]; omega
  have h3 := zext_nonneg d
  rw [Operand.signed16, Operand.value, Option.map_some, Option.bind_some,
    asSigned_some (by norm_num; omega) (by norm_num; omega), h1]

/-- `$` as an unsigned 32-bit operand. -/
theorem unsigned32_last (d : Word32) : Operand.last.unsigned32 (some d) = some d := by
  have h1 : enc 32 (zext d) = d := by
    rw [zext_def, enc_natCast]
    exact BitVec.eq_of_toNat_eq (by simp)
  rw [Operand.unsigned32, Operand.value, Option.map_some, Option.bind_some,
    asUnsigned_some (zext_nonneg d) (zext_lt d), h1]

/-- The data of the response just sent is what `$` means next. -/
@[simp] theorem lastData_respond_ok (s : State) (d : Word32) : lastData (s.respond ⟨.ok, d⟩).responses = some d := rfl

/-- An error response leaves the meaning of `$`. -/
@[simp] theorem lastData_respond_err (s : State) (e : Err) (d : Word32) :
    lastData (s.respond ⟨.err e, d⟩).responses = lastData s.responses := rfl

end Sys2Proof.Machine
end

