-- ==== Sys2Proof/Machine/TraceText.lean ====
section
/-!
DEFINITION. The written form of a trace line, as characters (R82, R83): `<agent>: <mnemonic> <operands> -> <response>`.
Words of a line are separated by spaces or commas (DESIGN CHOICE, safe: log 12).
-/

namespace Sys2Proof.Machine

/-- What a line says of its response: `-> v` or `-> ERR_NAME` (R82). -/
inductive Expect where
  /-- `-> v` -/
  | value (v : Int)
  /-- `-> ERR_NAME` -/
  | error (e : Err)
  deriving DecidableEq, Repr

/-- A line as written. -/
structure TextLine where
  /-- the operation -/
  line : TraceLine
  /-- the response, where one is written -/
  expect : Option Expect
  deriving DecidableEq, Repr

/-! ### Words of a line -/

/-- Split characters into words at spaces and commas; `cur` is the word read so far, its last character first. -/
def wordsFrom (cur : List Char) : List Char → List (List Char)
  | [] => if cur = [] then [] else [cur.reverse]
  | c :: cs =>
    if c = ' ' ∨ c = ',' then (if cur = [] then wordsFrom [] cs else cur.reverse :: wordsFrom [] cs)
    else wordsFrom (c :: cur) cs

/-- The words of a line. -/
def lineWords (cs : List Char) : List (List Char) := wordsFrom [] cs

/-! ### Numerals: decimal, `0x` hexadecimal or `0b` binary (R82) -/

/-- The value of a hexadecimal digit. -/
def digitValue (c : Char) : Option Nat :=
  if '0' ≤ c ∧ c ≤ '9' then some (c.toNat - 48)
  else if 'a' ≤ c ∧ c ≤ 'f' then some (c.toNat - 87)
  else if 'A' ≤ c ∧ c ≤ 'F' then some (c.toNat - 55)
  else none

/-- Digits of a base, read from the left after the value `acc`. An underscore is no digit here: R16 makes it a separator in
the spec's own numerals, and R82 says nothing of it in a trace. DESIGN CHOICE, safe: log 15. -/
def digitsFrom (base acc : Nat) : List Char → Option Nat
  | [] => some acc
  | c :: cs =>
    match digitValue c with
    | none => none
    | some d => if d < base then digitsFrom base (acc * base + d) cs else none

/-- At least one digit of a base. -/
def digits (base : Nat) : List Char → Option Nat
  | [] => none
  | c :: cs => digitsFrom base 0 (c :: cs)

/-- A numeral without a sign, of digits alone: an underscore in it is refused. DESIGN CHOICE, safe: log 15. -/
def natural : List Char → Option Nat
  | '0' :: 'x' :: cs => digits 16 cs
  | '0' :: 'b' :: cs => digits 2 cs
  | cs => digits 10 cs

/-- A numeral with or without a leading minus. -/
def signedNumeral : List Char → Option Int
  | '-' :: cs => (natural cs).map fun n => -(n : Int)
  | cs => (natural cs).map fun n => (n : Int)

/-- An operand that takes no sign: a numeral or `$`. -/
def unsignedOperand (cs : List Char) : Option Operand :=
  if cs = ['$'] then some .last else (natural cs).map fun n => .num n

/-- An operand that may have a leading minus, `p` or `angle` alone: a numeral or `$`. -/
def signedOperand (cs : List Char) : Option Operand :=
  if cs = ['$'] then some .last else (signedNumeral cs).map .num

/-- One binary digit as a level. -/
def levelOf (c : Char) : Option Level :=
  if c = '0' then some 0 else if c = '1' then some 1 else none

/-! ### Lines -/

/-- The operands of `EDGE`: `a,b`, or `ab` as two binary digits, A first. -/
def edgeLine : List (List Char) → Option TraceLine
  | [[a], [b]] => (levelOf a).bind fun x => (levelOf b).map (.edge x)
  | [[a, b]] => (levelOf a).bind fun x => (levelOf b).map (.edge x)
  | _ => none

/-- The operand of `BTN`. -/
def btnLine : List (List Char) → Option TraceLine
  | [[sw]] => (levelOf sw).map .btn
  | _ => none

/-- A command without operands. -/
def lineOf0 (c : CommandLine) : List (List Char) → Option TraceLine
  | [] => some (.cmd c)
  | _ => none

/-- A command with one operand. -/
def lineOf1 (f : Operand → CommandLine) (p : List Char → Option Operand) : List (List Char) → Option TraceLine
  | [x] => (p x).map fun o => .cmd (f o)
  | _ => none

/-- A command with two operands, the second without a sign. -/
def lineOf2 (f : Operand → Operand → CommandLine) (p : List Char → Option Operand) :
    List (List Char) → Option TraceLine
  | [x, y] => (p x).bind fun o => (unsignedOperand y).map fun u => .cmd (f o u)
  | _ => none

/-- A line of the consumer: one of the twelve commands. R82 lists no line of a pseudo-operation and R224 writes `C: DRAIN`:
a pseudo-operation as a written line is refused, and stands in a trace as its commands. DESIGN CHOICE, safe: log 17. -/
def commandLine (name : List Char) (args : List (List Char)) : Option TraceLine :=
  if name = "HASPENDING".toList then lineOf0 .haspending args
  else if name = "TAKE".toList then lineOf0 .take args
  else if name = "ISPRESSED".toList then lineOf0 .ispressed args
  else if name = "ACK".toList then lineOf0 .ack args
  else if name = "PW2DUTY".toList then lineOf1 .pw2duty unsignedOperand args
  else if name = "PCT2PW".toList then lineOf1 .pct2pw signedOperand args
  else if name = "ANG2PW".toList then lineOf2 .ang2pw signedOperand args
  else if name = "SETBOUNDS".toList then lineOf2 .setbounds unsignedOperand args
  else if name = "WRDUTY".toList then lineOf1 .wrduty unsignedOperand args
  else if name = "PW2PCT".toList then lineOf1 .pw2pct unsignedOperand args
  else if name = "PW2ANG".toList then lineOf2 .pw2ang unsignedOperand args
  else if name = "DUTY2PW".toList then lineOf1 .duty2pw unsignedOperand args
  else none

/-- A line of the producer. -/
def producerLine (name : List Char) (args : List (List Char)) : Option TraceLine :=
  if name = "EDGE".toList then edgeLine args
  else if name = "BTN".toList then btnLine args
  else none

/-- A line of the host. -/
def hostLine (name : List Char) (args : List (List Char)) : Option TraceLine :=
  if name = "RESET".toList ∧ args = [] then some .reset else none

/-- The words of an operation: agent, mnemonic, operands (R82). -/
def operationOf : List (List Char) → Option TraceLine
  | agent :: name :: args =>
    if agent = "P:".toList then producerLine name args
    else if agent = "C:".toList then commandLine name args
    else if agent = "H:".toList then hostLine name args
    else none
  | _ => none

/-- The word after `->` (R82, R192). -/
def expectOf (cs : List Char) : Option Expect :=
  if cs = "ERR_RESERVED".toList then some (.error .reserved)
  else if cs = "ERR_BOUNDS".toList then some (.error .bounds)
  else if cs = "ERR_ANGLEMAX".toList then some (.error .angleMax)
  else if cs = "ERR_NOBOUNDS".toList then some (.error .noBounds)
  else if cs = "ERR_DUTYRANGE".toList then some (.error .dutyRange)
  else (signedNumeral cs).map .value

/-- The words before `->` and the words after it. -/
def splitArrow : List (List Char) → List (List Char) × Option (List (List Char))
  | [] => ([], none)
  | x :: xs =>
    if x = ['-', '>'] then ([], some xs) else (x :: (splitArrow xs).1, (splitArrow xs).2)

/-- A line as its words: an operation, and after `->` its response if one is written. R82 does not say what `->` means on
a line of the producer or the host, which has no response (R70): such a line is refused. DESIGN CHOICE, safe: log 16. -/
def textLineOf (ws : List (List Char)) : Option TextLine :=
  match splitArrow ws with
  | (op, none) => (operationOf op).map fun l => ⟨l, none⟩
  | (op, some [r]) =>
    (operationOf op).bind fun l => if l.isCommand then (expectOf r).map fun e => ⟨l, some e⟩ else none
  | _ => none

/-- Read a line of a trace. -/
def parseLine (cs : List Char) : Option TextLine := textLineOf (lineWords cs)

/-- The response is the one written: `-> v` is `st = 0` and `data = enc_32(v)`, `-> ERR_NAME` is that error (R82). -/
def Expect.holds (e : Expect) (r : Response) : Bool :=
  match e with
  | .value v => decide (r = ⟨.ok, enc 32 v⟩)
  | .error x => decide (r.st = .err x)

/-- The line, run in the state, is answered as it is written. A line without `->` says nothing of its response. A response
written for a line of the producer or the host never holds, since that line has none: it is not compared with an earlier
response. DESIGN CHOICE, safe: log 16. -/
def TextLine.holdsAt (t : TextLine) (s : State) : Bool :=
  match t.expect with
  | none => true
  | some e =>
    match runTrace false [t.line] s with
    | .done u => t.line.isCommand && (u.responses.head?.map e.holds).getD false
    | .stopped _ => false
    | .unassembled _ => false
    | .fault _ => false
    | .refused _ => false

end Sys2Proof.Machine
end

