-- ==== Sys2Proof/Tests/Slice0.lean ====
section
/-!
SUPPORT. Tests. Expected values are those of the spec's worked examples and vectors (V and P numbers of spec/95 to 97) or
of a rule; the configuration is that of the vectors, `FREQ_HZ = 50`.
-/

namespace Sys2Proof.Tests

open Sys2Proof Sys2Proof.Machine

/-- The configuration of the vectors. -/
def config : Config where
  freqHz := 50
  pendingOnNochange := false
  pendingOnButton := false
  hasAngle := true
  hasInverse := true
  wellFormed := by decide

/-- Without the angle operations. -/
def configNoAngle : Config := { config with hasAngle := false }

/-- Without the inverse operations. -/
def configNoInverse : Config := { config with hasInverse := false }

/-- After reset, with the configuration of the vectors. -/
def fresh : State := { State.reset with cfg := config }

/-- With bounds. -/
def bounded (lo hi : Word16) : State := fresh.setBounds lo hi

/-- With a level pair, a count and a flag. -/
def counting (prev : LevelPair) (acc : BitVec 32) (pending : Bool) : State :=
  { fresh with prev := prev, acc := acc, pending := pending }

/-- What `f` reads of the state after an operation. -/
def afterOp {α : Type} (f : State → α) (i : Instr) (s : State) : Option α :=
  match exec i s with
  | .next t => some (f t)
  | .fault _ => none
  | .refused _ => none

/-- What `f` reads of the state after a step. -/
def afterStep {α : Type} (f : State → α) (s : State) : Option α :=
  match step s with
  | .next t => some (f t)
  | .fault _ => none
  | .refused _ => none

/-- The state with one word presented. -/
def offer (w : PortWord) (s : State) : State := { s with presented := [w] }

/-! ### Well-formedness: each check refuses an ill-formed term -/

theorem test_wf_ang2pw_needs_angle : Instr.wellFormed configNoAngle (.ang2pw 0 1) = false := by decide
theorem test_wf_pw2ang_needs_angle : Instr.wellFormed configNoAngle (.pw2ang 0 1) = false := by decide
theorem test_wf_pw2ang_needs_inverse : Instr.wellFormed configNoInverse (.pw2ang 0 1) = false := by decide
theorem test_wf_pw2pct_needs_inverse : Instr.wellFormed configNoInverse (.pw2pct 0) = false := by decide
theorem test_wf_duty2pw_needs_inverse : Instr.wellFormed configNoInverse (.duty2pw 0) = false := by decide
theorem test_wf_accepts : Instr.wellFormed config (.pw2ang 0 1) = true := by decide

/-- R15: the ends of each range and one value beyond each end. -/
theorem test_config_admissible :
    Config.admissible 13 50 32 = true ∧ Config.admissible 1 1 4 = true ∧ Config.admissible 16 1000000 4 = true ∧
    Config.admissible 0 50 32 = false ∧ Config.admissible 17 50 32 = false ∧
    Config.admissible 13 0 32 = false ∧ Config.admissible 13 1000001 32 = false ∧
    Config.admissible 13 50 3 = false := by decide

/-! ### Decoding: one written word for each operation (R71 to R76, V1, V20, V22, V30 to V61) -/

theorem test_decode_edge : decode config (.laneQ 0b101) = .op (.edge 0 1) := by decide
theorem test_decode_btn : decode config (.laneS 0b11) = .op (.btn 1) := by decide
theorem test_decode_reset : decode config (.portH 1) = .op .reset := by decide
theorem test_decode_haspending : decode config (.portC 0x0100000000) = .op .haspending := by decide
theorem test_decode_take : decode config (.portC 0x0200000000) = .op .take := by decide
theorem test_decode_ispressed : decode config (.portC 0x0300000000) = .op .ispressed := by decide
theorem test_decode_ack : decode config (.portC 0x0400000000) = .op .ack := by decide
theorem test_decode_pw2duty : decode config (.portC 0x10000005DC) = .op (.pw2duty 1500) := by decide
theorem test_decode_pct2pw : decode config (.portC 0x110000FFFF) = .op (.pct2pw (-1)) := by decide
theorem test_decode_ang2pw : decode config (.portC 0x1200B4005A) = .op (.ang2pw 90 180) := by decide
theorem test_decode_setbounds : decode config (.portC 0x1307D003E8) = .op (.setbounds 1000 2000) := by decide
theorem test_decode_wrduty : decode config (.portC 0x1400000266) = .op (.wrduty 614) := by decide
theorem test_decode_pw2pct : decode config (.portC 0x18000005DC) = .op (.pw2pct 1500) := by decide
theorem test_decode_pw2ang : decode config (.portC 0x1900B405DC) = .op (.pw2ang 1500 180) := by decide
theorem test_decode_duty2pw : decode config (.portC 0x1A00000266) = .op (.duty2pw 614) := by decide

/-- R79, one word for each clause. -/
theorem test_decode_reserved :
    decode config (.portC 0x0500000000) = .reserved .unknownOpcode ∧
    decode config (.portC 0x0200000001) = .reserved .operandBitsNonzero ∧
    decode config (.portC 0x10000105DC) = .reserved .fieldBNonzero ∧
    decode configNoAngle (.portC 0x1200B4005A) = .reserved .angleAbsent ∧
    decode configNoInverse (.portC 0x18000005DC) = .reserved .inverseAbsent := by decide

/-- R80 (V18): without the event bit the level bits mean nothing. -/
theorem test_decode_no_event :
    decode config (.laneQ 0b011) = .noEvent ∧ decode config (.laneS 0b01) = .noEvent ∧
    decode config (.portH 0) = .noEvent := by decide

/-- The table's numbering of a word (log 11). -/
theorem test_decodeTableWord :
    decodeTableWord 8 0x6 = some (.edge 1 0) ∧ decodeTableWord 8 0x2 = some (.btn 0) ∧
    decodeTableWord 8 0x1 = some .reset ∧ decodeTableWord 40 0x1307D003E8 = some (.setbounds 1000 2000) ∧
    decodeTableWord 8 0x0 = none ∧ decodeTableWord 40 0x0500000000 = none := by decide

/-- The word placed by `withFetchWord` runs in the next step. -/
theorem test_withFetchWord :
    afterStep (fun t => (t.minUs, t.maxUs, t.presented)) (fresh.withFetchWord 40 0x1307D003E8) =
      some (1000, 2000, []) := by decide

/-- V24, R191: the response to a reserved word. -/
theorem test_reserved_response :
    afterStep (fun t => t.responses.map responseWord) (offer (.portC 0x0200000001) fresh) =
      some [0x100000000] := by decide

/-! ### The producer -/

/-- V1 key 12: a skipped state. -/
theorem test_edge_skips : afterOp (fun t => (t.acc, t.prev, t.pending)) (.edge 1 1) fresh = some (2, 0b11, true) := by
  decide

/-- V16: the accumulator wraps. -/
theorem test_edge_wraps : afterOp State.acc (.edge 1 0) (counting 0 0x7FFFFFFF false) = some 0x80000000 := by decide

/-- V19: `PENDING_ON_NOCHANGE`. -/
theorem test_edge_same :
    afterOp State.pending (.edge 0 0) fresh = some false ∧
    afterOp State.pending (.edge 0 0) { fresh with cfg := { config with pendingOnNochange := true } } = some true := by
  decide

/-- V20: the switch is active low. -/
theorem test_btn :
    afterOp (fun t => (t.pressed, t.pending)) (.btn 0) fresh = some (true, false) ∧
    afterOp State.pressed (.btn 1) { fresh with pressed := true } = some false := by decide

/-- V19: `PENDING_ON_BUTTON`. -/
theorem test_btn_pending :
    afterOp State.pending (.btn 1) { fresh with cfg := { config with pendingOnButton := true } } = some true := by
  decide

/-! ### The host -/

/-- R220: the configuration stays and there is no response. -/
theorem test_reset :
    afterOp (fun t => (t.prev, t.acc, t.pending, t.boundsValid)) .reset
      ((counting 0b11 7 true).setBounds 1 2) = some (0, 0, false, false) ∧
    afterOp (fun t => (t.cfg, t.responses)) .reset (counting 0b11 7 true) = some (config, []) := by decide

/-! ### The consumer's commands to the decoder (V22, V23) -/

theorem test_haspending : answer .haspending (counting 0 0 true) = some ⟨.ok, 1⟩ := by decide
theorem test_haspending_is_stored : answer .haspending (counting 0 5 false) = some ⟨.ok, 0⟩ := by decide
theorem test_take_negative : answer .take (counting 0b01 (-3) true) = some ⟨.ok, 0xFFFFFFFD⟩ := by decide
theorem test_take_keeps_pending :
    afterOp (fun t => (t.acc, t.pending, t.prev)) .take (counting 0b01 (-3) true) = some (0, true, 0b01) := by decide
theorem test_ispressed : answer .ispressed { fresh with pressed := true } = some ⟨.ok, 1⟩ := by decide
theorem test_ack :
    afterOp (fun t => (t.acc, t.pending)) .ack (counting 0 5 true) = some (5, false) ∧
    answer .ack (counting 0 5 true) = some ⟨.ok, 0⟩ := by decide

/-! ### The converter (V30 to V35, V50 to V52) -/

theorem test_pw2duty : answer (.pw2duty 1500) fresh = some ⟨.ok, 614⟩ := by decide
theorem test_pw2duty_not_clamped : answer (.pw2duty 20003) fresh = some ⟨.ok, 8192⟩ := by decide
theorem test_pct2pw_negative : answer (.pct2pw 0xFFFF) (bounded 1000 2000) = some ⟨.ok, 1000⟩ := by decide
theorem test_pct2pw_truncates : answer (.pct2pw 33) (bounded 500 2500) = some ⟨.ok, 1160⟩ := by decide
theorem test_ang2pw_truncates : answer (.ang2pw 91 180) (bounded 500 2500) = some ⟨.ok, 1511⟩ := by decide
theorem test_ang2pw_error_order : answer (.ang2pw 90 0) fresh = some ⟨.err .angleMax, 0⟩ := by decide
theorem test_setbounds_equal :
    afterOp (fun t => (t.minUs, t.responses)) (.setbounds 1500 1500) (bounded 1000 2000) =
      some (1000, [⟨.err .bounds, 0⟩]) := by decide
theorem test_setbounds_unsigned :
    afterOp (fun t => (t.minUs, t.maxUs, t.boundsValid)) (.setbounds 0 65535) fresh = some (0, 65535, true) := by decide
theorem test_wrduty : afterOp State.dutyOut (.wrduty 8191) fresh = some 8191 := by decide
theorem test_wrduty_range :
    afterOp (fun t => (t.dutyOut, t.responses)) (.wrduty 8192) fresh = some (0, [⟨.err .dutyRange, 0⟩]) := by decide
theorem test_pw2pct : answer (.pw2pct 1337) (bounded 1000 2000) = some ⟨.ok, 33⟩ := by decide
theorem test_pw2pct_no_bounds : answer (.pw2pct 1337) fresh = some ⟨.err .noBounds, 0⟩ := by decide
theorem test_pw2ang : answer (.pw2ang 1500 180) (bounded 500 2500) = some ⟨.ok, 90⟩ := by decide
theorem test_pw2ang_no_bounds : answer (.pw2ang 1500 180) fresh = some ⟨.err .noBounds, 0⟩ := by decide
theorem test_duty2pw : answer (.duty2pw 614) fresh = some ⟨.ok, 1499⟩ := by decide
theorem test_duty2pw_range : answer (.duty2pw 8192) fresh = some ⟨.err .dutyRange, 0⟩ := by decide

/-! ### Trace lines (R82 to R84) -/

theorem test_parse_edge : parseLine "P: EDGE 10".toList = some ⟨.edge 1 0, none⟩ := by decide
theorem test_parse_angle :
    parseLine "C: ANG2PW -5, 0xB4 -> 500".toList = some ⟨.cmd (.ang2pw (.num (-5)) (.num 180)), some (.value 500)⟩ := by
  decide
theorem test_parse_error :
    parseLine "C: PCT2PW 50 -> ERR_NOBOUNDS".toList = some ⟨.cmd (.pct2pw (.num 50)), some (.error .noBounds)⟩ := by decide
theorem test_parse_refuses :
    parseLine "C: PW2DUTY -1".toList = none ∧ parseLine "P: TAKE".toList = none ∧
    parseLine "C: TAKE 1".toList = none := by decide

/-- The model's choices of log 15, log 16 and log 17: no underscore in a numeral, no response written for an event, no
pseudo-operation as a written line. -/
theorem test_parse_choices :
    parseLine "C: WRDUTY 1_000".toList = none ∧ parseLine "P: BTN 0 -> 0".toList = none ∧
    parseLine "C: DRAIN".toList = none ∧
    TextLine.holdsAt ⟨.btn 0, some (.value 0)⟩ (fresh.respond ⟨.ok, 0⟩) = false := by decide

/-- P1: lines 10, 11 and 13 drain after a poll of 1, line 19 reads the switch after the poll of 0 of line 18 (log 18). -/
theorem test_afterPoll :
    afterPoll false (fresh.respond ⟨.ok, 1⟩) = [.ack, .take] ∧
    afterPoll true (fresh.respond ⟨.ok, 1⟩) = [.ack, .take, .ispressed] ∧
    afterPoll false (fresh.respond ⟨.ok, 0⟩) = [] ∧
    afterPoll true (fresh.respond ⟨.ok, 0⟩) = [.ispressed] := by decide

/-- P2: 25 percent of 1000 to 2000. -/
theorem test_setpct :
    (match runPseudo (.setpct (.num 25)) (bounded 1000 2000) with
      | .done t => some t.dutyOut
      | _ => none) = some 511 := by decide

/-! ### Witnesses: the hypotheses of each statement of Certificates/Slice0/Obligations.lean hold together -/

theorem test_witness_EncodedWordDecodesToItsOperation :
    Instr.wellFormed config (.pw2ang 0xFFFF 0xFFFF) = true ∧ Instr.wellFormed configNoAngle (.pw2pct 0) = true := by
  decide

theorem test_witness_DecodedOperationHasOneWord :
    decode config (.portC 0x1AFFFFFFFF) = .op (.duty2pw 0xFFFFFFFF) := by decide

theorem test_witness_WrittenWordsDecode : config.hasAngle = true ∧ config.hasInverse = true := by decide

/-- Each clause of R79 alone, and a word that is not reserved. -/
theorem test_witness_ReservedCommandWords :
    (offer (.portC 0xFF00000000) fresh).presented = [.portC 0xFF00000000] ∧
    ((0xFF00000000#40).extractLsb' 32 8).toNat = 0xFF ∧
    ((0x0400000001#40).extractLsb' 32 8).toNat = 0x04 ∧ (0x0400000001#40).extractLsb' 0 32 ≠ 0#32 ∧
    ((0x1800010000#40).extractLsb' 32 8).toNat = 0x18 ∧ (0x1800010000#40).extractLsb' 16 16 ≠ 0#16 ∧
    configNoAngle.hasAngle = false ∧ ((0x1900000000#40).extractLsb' 32 8).toNat = 0x19 ∧
    configNoInverse.hasInverse = false ∧ ((0x1A00000000#40).extractLsb' 32 8).toNat = 0x1A ∧
    ((0x1A00010000#40).extractLsb' 32 8).toNat ∉ [0x01, 0x02, 0x03, 0x04, 0x10, 0x11, 0x18] ∧
    config.hasInverse = true := by decide

/-- Both sides of the event bit, at each port. -/
theorem test_witness_LaneAndHostWords :
    (offer (.laneQ 3) fresh).presented = [.laneQ 3] ∧ (3#3).toNat < 4 ∧
    (offer (.laneQ 4) fresh).presented = [.laneQ 4] ∧ 4 ≤ (4#3).toNat ∧
    (offer (.laneS 1) fresh).presented = [.laneS 1] ∧ (1#2).toNat < 2 ∧
    (offer (.laneS 2) fresh).presented = [.laneS 2] ∧ 2 ≤ (2#2).toNat ∧
    (offer (.portH 0) fresh).presented = [.portH 0] ∧ (offer (.portH 1) fresh).presented = [.portH 1] := by decide

theorem test_witness_PortsFixTheAgent : decode config (.portH 1) = .op .reset := by decide

theorem test_witness_StepRunsTheDecodedOperation :
    (offer (.portC 0x1307D003E8) fresh).presented = [.portC 0x1307D003E8] ∧
    decode (offer (.portC 0x1307D003E8) fresh).cfg (.portC 0x1307D003E8) = .op (.setbounds 1000 2000) := by decide

theorem test_witness_NothingPresentedChangesNothing : fresh.presented = [] := by decide

theorem test_witness_StepKeepsTheBoundsInvariant :
    BoundsInv (bounded 1000 1001) ∧ exec .reset (bounded 1000 1001) = .next (bounded 1000 1001).clearRecord ∧
    step (offer (.portH 1) (bounded 1000 1001)) = .next (bounded 1000 1001).clearRecord :=
  ⟨by decide, rfl, rfl⟩

/-- A command, and a word of each other port. -/
theorem test_witness_OneResponseForEachCommand :
    (offer (.portC 0x0100000000) fresh).presented = [.portC 0x0100000000] ∧
    step (offer (.portC 0x0100000000) fresh) = .next (fresh.respond ⟨.ok, 0⟩) ∧
    (PortWord.portC 0x0100000000).agent = .consumer ∧
    (offer (.laneQ 0) fresh).presented = [.laneQ 0] ∧ step (offer (.laneQ 0) fresh) = .next fresh ∧
    (PortWord.laneQ 0).agent ≠ .consumer :=
  ⟨rfl, rfl, rfl, rfl, rfl, by decide⟩

theorem test_witness_ErrorResponsesWriteNothing :
    step (offer (.portC 0x13000A000A) fresh) = .next (fresh.respond ⟨.err .bounds, 0⟩) ∧
    (fresh.respond ⟨.err .bounds, 0⟩).responses = ⟨.err .bounds, 0⟩ :: fresh.responses ∧
    (Status.err .bounds) ≠ .ok :=
  ⟨rfl, rfl, by decide⟩

theorem test_witness_AccessMatrixWrites :
    exec .ack (counting 0 5 true) = .next ((counting 0 5 false).respond ⟨.ok, 0⟩) ∧
    Fld.acc ∉ writesOf config .ack :=
  ⟨rfl, by decide⟩

/-- Two states that differ where `TAKE` does not read. -/
theorem test_witness_AccessMatrixReads :
    (counting 0 5 true).cfg = (counting 1 5 false).cfg ∧
    (∀ f ∈ readsOf .take, (counting 0 5 true).fld f = (counting 1 5 false).fld f) ∧
    exec .take (counting 0 5 true) = .next ((counting 0 0 true).respond ⟨.ok, 5⟩) ∧
    exec .take (counting 1 5 false) = .next ((counting 1 0 false).respond ⟨.ok, 5⟩) ∧
    (counting 0 5 true).fld .acc = (counting 1 5 false).fld .acc :=
  ⟨by decide, by decide, rfl, rfl, by decide⟩

theorem test_witness_ComponentsCommute :
    componentOf .take = .qdec ∧ componentOf (.setbounds 1 2) = .auc := by decide

theorem test_witness_RepeatingAnOperation :
    Instr.agent .ack = .consumer ∧ Instr.ack ≠ .take ∧ writesOf config .haspending = [] := by decide

/-- One key of each class. -/
theorem test_witness_TransitionKeyAndTable :
    (15#4).toNat ∈ [0, 5, 10, 15] ∧ (14#4).toNat ∈ [1, 7, 8, 14] ∧ (13#4).toNat ∈ [2, 4, 11, 13] ∧
    (12#4).toNat ∈ [3, 12] ∧ (9#4).toNat ∈ [6, 9] := by decide

theorem test_witness_EdgeUpdatesTheRecord :
    (0#1 ++ 1#1) = (counting 0b01 0 false).prev ∧ (1#1 ++ 0#1) ≠ (counting 0b01 0 false).prev := by decide

theorem test_witness_PlusAndMinusCycles : (counting 0 0x7FFFFFFF false).prev = 0 := by decide

theorem test_witness_CommandAndEventInBothOrders : (1#1 ++ 1#1) ≠ (counting 0 0x80000000 false).prev := by decide

theorem test_witness_CoincidentCommandGoesFirst : (0#1 ++ 1#1) ≠ (counting 0b11 5 true).prev := by decide

theorem test_witness_DrainLeavesNothingUnflagged :
    (∀ i ∈ [Instr.edge 1 1] ++ [Instr.btn 0], i.agent = .producer) ∧ (1#1 ++ 0#1) ≠ fresh.prev := by decide

theorem test_witness_TicksAreConserved :
    (∀ i ∈ [Instr.edge 1 0, .take, .edge 1 1], i ≠ .reset) ∧
    neverOverflows [.edge 1 0, .take, .edge 1 1] (counting 0 0x7FFFFFFE false) = true := by decide

theorem test_witness_NoOverflowWithinTheBound :
    fresh.acc = 0 ∧ [Instr.edge 1 0, .reset, .edge 1 1].countP isEdge ≤ 1073741823 := by decide

theorem test_witness_Pw2dutyCornerCases :
    (20000#16).toNat = fresh.cfg.periodUs ∧ 20002#16 ≤ 20003#16 := by decide

theorem test_witness_Pct2pwComputes :
    fresh.boundsValid = false ∧
    (bounded 65534 65535).boundsValid = true ∧ (bounded 65534 65535).minUs < (bounded 65534 65535).maxUs := by decide

theorem test_witness_Pct2pwStaysInTheBounds :
    (bounded 0 1).boundsValid = true ∧ (bounded 0 1).minUs < (bounded 0 1).maxUs ∧
    (0#16).toInt ≤ 0 ∧ 100 ≤ (100#16).toInt ∧ (0xFFFF#16).toInt ≤ (0#16).toInt := by decide

theorem test_witness_Ang2pwComputes :
    { fresh with cfg := configNoAngle }.cfg.hasAngle = false ∧ 0#16 = 0 ∧ 1#16 ≠ 0 ∧ fresh.boundsValid = false ∧
    (bounded 0 1).boundsValid = true ∧ (bounded 0 1).minUs < (bounded 0 1).maxUs := by decide

theorem test_witness_Ang2pwStaysInTheBounds :
    (bounded 0 1).boundsValid = true ∧ (bounded 0 1).minUs < (bounded 0 1).maxUs ∧ 32768#16 ≠ 0 ∧
    (0#16).toInt ≤ 0 ∧ ((180#16).toNat : Int) ≤ (180#16).toInt ∧ 32767 < (32768#16).toNat := by decide

theorem test_witness_SetboundsUpdatesTheBounds : 1000#16 ≤ 1000#16 ∧ 1000#16 < 1001#16 := by decide

theorem test_witness_WrdutyWritesTheDuty : 8191 < (8192#32).toNat ∧ (8191#32).toNat ≤ 8191 := by decide

theorem test_witness_Pw2pctComputes :
    { fresh with cfg := configNoInverse }.cfg.hasInverse = false ∧ fresh.boundsValid = false ∧ (bounded 0 65535).boundsValid = true ∧
    (bounded 0 65535).minUs < (bounded 0 65535).maxUs := by decide

theorem test_witness_Pw2angComputes :
    { fresh with cfg := configNoAngle }.cfg.hasAngle = false ∧ { fresh with cfg := configNoInverse }.cfg.hasInverse = false ∧
    0#16 = 0 ∧ 1#16 ≠ 0 ∧ fresh.boundsValid = false ∧
    (bounded 500 2500).boundsValid = true ∧ (bounded 500 2500).minUs < (bounded 500 2500).maxUs := by decide

theorem test_witness_InverseResultsStayInRange :
    (bounded 500 2500).boundsValid = true ∧ (bounded 500 2500).minUs < (bounded 500 2500).maxUs ∧ 180#16 ≠ 0 ∧
    500#16 ≤ (bounded 500 2500).minUs ∧ (bounded 500 2500).maxUs ≤ 2500#16 := by decide

theorem test_witness_Duty2pwComputes :
    { fresh with cfg := configNoInverse }.cfg.hasInverse = false ∧ 8191 < (8192#32).toNat ∧ (8191#32).toNat ≤ 8191 := by decide

theorem test_witness_PercentThereAndBack :
    (bounded 1000 2000).boundsValid = true ∧ (bounded 1000 2000).minUs < (bounded 1000 2000).maxUs ∧
    (bounded 1000 2000).cfg.hasInverse = true ∧
    ((bounded 1000 2000).maxUs.toNat - (bounded 1000 2000).minUs.toNat) % 100 = 0 := by decide

theorem test_witness_PulseWidthThereAndBackByPercent :
    (bounded 1000 2000).boundsValid = true ∧ (bounded 1000 2000).minUs < (bounded 1000 2000).maxUs ∧
    (bounded 1000 2000).cfg.hasInverse = true ∧
    (bounded 1000 2000).minUs ≤ 1337#16 ∧ 1337#16 ≤ (bounded 1000 2000).maxUs := by decide

theorem test_witness_PulseWidthThereAndBackByDuty :
    (20000#16).toNat ≤ fresh.cfg.periodUs ∧ fresh.cfg.hasInverse = true := by decide

/-- 100 percent of bounds that end at the period is the largest duty. -/
theorem test_witness_SetpctCommandsThePercentage :
    (bounded 1000 20000).boundsValid = true ∧ (bounded 1000 20000).minUs < (bounded 1000 20000).maxUs ∧
    ((bounded 1000 20000).minUs.toNat + ((bounded 1000 20000).maxUs.toNat - (bounded 1000 20000).minUs.toNat) *
      (max 0 (min 100 (32767 : Int))).toNat / 100) * 8191 / (bounded 1000 20000).cfg.periodUs ≤ 8191 := by decide

theorem test_witness_SetangCommandsTheAngle :
    (bounded 500 2500).cfg.hasAngle = true ∧ (bounded 500 2500).boundsValid = true ∧
    (bounded 500 2500).minUs < (bounded 500 2500).maxUs ∧
    ((bounded 500 2500).minUs.toNat + ((bounded 500 2500).maxUs.toNat - (bounded 500 2500).minUs.toNat) *
      (max 0 (min ((180 : Nat) : Int) 90)).toNat / 180) * 8191 / (bounded 500 2500).cfg.periodUs ≤ 8191 := by decide

theorem test_witness_SetpwWithinThePeriod : (20000#16).toNat ≤ fresh.cfg.periodUs := by decide

/-- V30: 20003 is the first pulse width whose duty is above `DUTY_MAX`. -/
theorem test_witness_PseudoStopsAtTheFirstError :
    runPseudo (.setpw (.num 20003)) fresh =
      .stopped { fresh with responses := [⟨.err .dutyRange, 0⟩, ⟨.ok, 8192⟩] } ∧
    runPseudo (.rebound (.num 1000) (.num 30000) (.num 100)) fresh =
      .stopped { bounded 1000 30000 with
        responses := [⟨.err .dutyRange, 0⟩, ⟨.ok, 12286⟩, ⟨.ok, 30000⟩, ⟨.ok, 0⟩] } ∧
    fresh.boundsValid = false ∧ fresh.cfg.hasAngle = true ∧ 1000#16 ≤ 1000#16 ∧ 8191 < (20003#16).toNat * 8191 / fresh.cfg.periodUs := by decide

theorem test_witness_BootSynchronises : 0#16 < 1#16 := by decide

end Sys2Proof.Tests
end

/-!
Repeating an operation at once (R55). A command other than `TAKE` sends one response `r` and leaves a state on which it
does nothing but send `r` again; `TAKE` alone answers otherwise the second time, since it reads what it writes; an event
and `RESET` leave a state which they keep.
-/

namespace Sys2Proof.Machine

/-! ### Updates that a repetition leaves alone -/

/-- Noting new data changes nothing where the flag is already set, or where nothing is to be noted. -/
theorem State.notePending_eq_self {s : State} {on : Bool} (h : on = true → s.pending = true) :
    s.notePending on = s := by
  cases on with
  | true => simp [State.notePending, ← h rfl]
  | false => simp [State.notePending]

/-- A response is not part of the record. -/
theorem sameRecord_respond (s : State) (r : Response) : SameRecord (s.respond r) s := fun f => by cases f <;> rfl

/-! ### Commands that answer alike twice -/

/-- From `s` the command leaves `t` and sends a response; repeated at once it sends that response again and does nothing
else. -/
def AnswersAlike (op : State → Result) (s t : State) : Prop :=
  ∃ r : Response, op s = .next (t.respond r) ∧ op (t.respond r) = .next ((t.respond r).respond r)

/-- A command that succeeds both times with one value. -/
theorem AnswersAlike.of_succeed {op : State → Result} {s t : State} {v : Int} (first : op s = succeed v t)
    (second : ∀ r, op (t.respond r) = succeed v (t.respond r)) : AnswersAlike op s t :=
  ⟨_, first.trans (succeed_eq v t), (second _).trans (succeed_eq v _)⟩

/-- A command that raises one error both times. -/
theorem AnswersAlike.of_raise {op : State → Result} {s : State} {e : Err} (raises : ∀ u, op u = raise e u) :
    AnswersAlike op s s :=
  ⟨_, (raises s).trans (raise_eq e s), (raises _).trans (raise_eq e _)⟩

/-- A command that only returns a value, which earlier responses do not influence. -/
theorem AnswersAlike.of_value {f : State → Int} {s : State} (hf : ∀ r, f (s.respond r) = f s) :
    AnswersAlike (fun u => succeed (f u) u) s s :=
  .of_succeed rfl fun r => by rw [hf r]

/-- A command that needs the bounds and returns a value, which earlier responses do not influence. -/
theorem AnswersAlike.of_value_in_bounds {f : State → Int} {s : State} (hf : ∀ r, f (s.respond r) = f s) :
    AnswersAlike (fun u => withBounds u (f u)) s s := by
  cases hb : s.boundsValid with
  | true => exact .of_succeed (withBounds_of_valid _ hb) fun r => by rw [hf r]; exact withBounds_of_valid _ hb
  | false => exact ⟨_, withBounds_of_invalid _ hb, withBounds_of_invalid _ hb⟩

/-- A check of the operands before a command that changes nothing: it fails both times or neither. -/
theorem AnswersAlike.of_check {op : State → Result} {s : State} {p : Prop} [Decidable p] (e : Err)
    (h : AnswersAlike op s s) : AnswersAlike (fun u => if p then raise e u else op u) s s := by
  by_cases hp : p
  · exact .of_raise fun u => if_pos hp
  · simpa only [if_neg hp] using h

/-! ### Repeating an operation -/

/-- What R55 says of one operation in one state. -/
def RepeatsAtOnce (i : Instr) (s : State) : Prop :=
  ∃ t u : State, exec i s = .next t ∧ exec i t = .next u ∧ SameRecord u t ∧
    (i.agent = .consumer → i ≠ .take → ∃ r : Response, u.responses = r :: r :: s.responses) ∧
    (i = .take → u.responses = ⟨.ok, 0⟩ :: ⟨.ok, s.acc⟩ :: s.responses) ∧
    (writesOf s.cfg i = [] → SameRecord t s)

/-- An operation without a response repeats when its second run changes nothing. -/
theorem repeatsAtOnce_of_event {i : Instr} {s t : State} (ha : i.agent ≠ .consumer) (hw : writesOf s.cfg i ≠ [])
    (first : exec i s = .next t) (second : exec i t = .next t) : RepeatsAtOnce i s :=
  ⟨t, t, first, second, fun _ => rfl, fun h => absurd h ha, fun h => absurd (h ▸ rfl) ha, fun h => absurd h hw⟩

/-- A command other than `TAKE` repeats when it answers alike twice and updates no more than its row of R34 says. -/
theorem repeatsAtOnce_of_command {i : Instr} {s t : State} (hi : i ≠ .take) (h : AnswersAlike (exec i) s t)
    (hr : t.responses = s.responses) (hw : writesOf s.cfg i = [] → t = s) : RepeatsAtOnce i s := by
  obtain ⟨r, first, second⟩ := h
  refine ⟨_, _, first, second, sameRecord_respond _ r, fun _ _ => ⟨r, by simp [hr]⟩,
    fun ht => absurd ht hi, fun he => ?_⟩
  exact hw he ▸ sameRecord_respond t r

/-- A command that changes nothing repeats when it answers alike twice. -/
theorem repeatsAtOnce_of_reader {i : Instr} {s : State} (hi : i ≠ .take) (h : AnswersAlike (exec i) s s) :
    RepeatsAtOnce i s :=
  repeatsAtOnce_of_command hi h rfl fun _ => rfl

/-- `EDGE`: after the first run the levels are the stored ones, and `pending` is set if an ignored `EDGE` sets it. -/
theorem edge_repeatsAtOnce (a b : Level) (s : State) : RepeatsAtOnce (.edge a b) s := by
  have ignored : ∀ t : State, levelPair a b = t.prev → (t.cfg.pendingOnNochange = true → t.pending = true) →
      exec (.edge a b) t = .next t := fun t hp hf => by
    rw [exec, execEdge, if_pos hp, State.notePending_eq_self hf]
  by_cases h : levelPair a b = s.prev
  · exact repeatsAtOnce_of_event nofun nofun (if_pos h)
      (ignored (s.notePending s.cfg.pendingOnNochange) h fun hf => by simpa using .inr hf)
  · exact repeatsAtOnce_of_event nofun nofun (if_neg h) (ignored (s.classify (levelPair a b)) rfl fun _ => rfl)

/-- `BTN`: the sample is the same, and `pending` is set if `BTN` sets it. -/
theorem btn_repeatsAtOnce (sw : Level) (s : State) : RepeatsAtOnce (.btn sw) s := by
  have hw : writesOf s.cfg (.btn sw) ≠ [] := by
    rw [writesOf]
    split <;> nofun
  refine repeatsAtOnce_of_event nofun hw rfl (congrArg Host.Outcome.next ?_)
  exact State.notePending_eq_self (s := (s.samplePressed sw).notePending s.cfg.pendingOnButton)
    fun hf => by simpa using .inr hf

/-- `TAKE`: the first returns the accumulator, and the second the 0 that the first left there. -/
theorem take_repeatsAtOnce (s : State) : RepeatsAtOnce .take s := by
  refine ⟨_, _, rfl, rfl, fun f => by cases f <;> rfl, fun _ h => absurd rfl h, fun _ => ?_, nofun⟩
  have hs (b : BitVec Config.accW) : enc 32 (sext b) = b := enc_sext b
  simp only [State.respond_responses, State.respond_acc, State.zeroAcc_acc, State.zeroAcc_responses, hs]

/-- `SETBOUNDS`: the operands alone decide whether it is refused, and the same bounds are written twice. -/
theorem setbounds_repeatsAtOnce (lo hi : Word16) (s : State) : RepeatsAtOnce (.setbounds lo hi) s := by
  by_cases h : lo < hi
  · exact repeatsAtOnce_of_command (t := s.setBounds lo hi) nofun
      (.of_succeed (execSetbounds_of_lt h) fun _ => execSetbounds_of_lt h) rfl nofun
  · exact repeatsAtOnce_of_reader nofun (.of_raise fun _ => execSetbounds_of_ge h)

/-- `WRDUTY`: the operand alone decides whether it is refused, and the same duty is written twice. -/
theorem wrduty_repeatsAtOnce (d : Word32) (s : State) : RepeatsAtOnce (.wrduty d) s := by
  by_cases h : d.toNat ≤ Config.dutyMax
  · exact repeatsAtOnce_of_command (t := s.setDuty (d.setWidth Config.dutyBits)) nofun
      (.of_succeed (execWrduty_of_le h) fun _ => execWrduty_of_le h) rfl nofun
  · exact repeatsAtOnce_of_reader nofun (.of_raise fun _ => execWrduty_of_gt (Nat.not_le.mp h))

/-- Settles O21: row by row as in R55, the rows without a change of state by the shape of their answer. -/
theorem repeatingAnOperation : Obligations.RepeatingAnOperation := by
  intro i s
  change RepeatsAtOnce i s
  cases i with
  | edge a b => exact edge_repeatsAtOnce a b s
  | btn sw => exact btn_repeatsAtOnce sw s
  | reset => exact repeatsAtOnce_of_event nofun nofun (t := s.clearRecord) rfl rfl
  | haspending => exact repeatsAtOnce_of_reader nofun (.of_value fun _ => rfl)
  | take => exact take_repeatsAtOnce s
  | ispressed => exact repeatsAtOnce_of_reader nofun (.of_value fun _ => rfl)
  | ack => exact repeatsAtOnce_of_command (t := s.clearPending) nofun (.of_succeed rfl fun _ => rfl) rfl nofun
  | pw2duty us => exact repeatsAtOnce_of_reader nofun (.of_value fun _ => rfl)
  | pct2pw p => exact repeatsAtOnce_of_reader nofun (.of_value_in_bounds fun _ => rfl)
  | ang2pw angle angleMax => exact repeatsAtOnce_of_reader nofun (.of_check .angleMax (.of_value_in_bounds fun _ => rfl))
  | setbounds lo hi => exact setbounds_repeatsAtOnce lo hi s
  | wrduty d => exact wrduty_repeatsAtOnce d s
  | pw2pct us => exact repeatsAtOnce_of_reader nofun (.of_value_in_bounds fun _ => rfl)
  | pw2ang us angleMax => exact repeatsAtOnce_of_reader nofun (.of_check .angleMax (.of_value_in_bounds fun _ => rfl))
  | duty2pw d => exact repeatsAtOnce_of_reader nofun (.of_check .dutyRange (.of_value fun _ => rfl))

end Sys2Proof.Machine

/-!
Reserved command words (R79). The decoder checks R79 clause by clause on the command it has found; here the clauses are
read off the bits of the word, and every command word is one or the other: reserved and decoded as such, or not reserved
and an operation.
-/

namespace Sys2Proof

/-! ### The opcode values of R76, by the properties that R79 asks for -/

theorem bits_mem_formatN (o : Opcode) : o.bits.toNat ∈ [0x01, 0x02, 0x03, 0x04] ↔ o.format = .n := by
  cases o <;> decide

theorem bits_mem_formatA (o : Opcode) : o.bits.toNat ∈ [0x10, 0x11, 0x18] ↔ o.format = .a := by
  cases o <;> decide

theorem bits_mem_angle (o : Opcode) : o.bits.toNat ∈ [0x12, 0x19] ↔ o.needsAngle = true := by
  cases o <;> decide

theorem bits_mem_inverse (o : Opcode) : o.bits.toNat ∈ [0x18, 0x19, 0x1A] ↔ o.needsInverse = true := by
  cases o <;> decide

theorem bits_mem_opcodeMap (o : Opcode) :
    o.bits.toNat ∈ [0x01, 0x02, 0x03, 0x04, 0x10, 0x11, 0x12, 0x13, 0x14, 0x18, 0x19, 0x1A] := by
  cases o <;> decide

/-- A value that stands for no command is none of the twelve of the map. -/
theorem not_mem_opcodeMap_of_ofBits_none {b : BitVec 8} (h : Opcode.ofBits b = none) :
    b.toNat ∉ [0x01, 0x02, 0x03, 0x04, 0x10, 0x11, 0x12, 0x13, 0x14, 0x18, 0x19, 0x1A] := by
  rw [Opcode.ofBits] at h
  split at h
  case h_13 => simp_all
  all_goals cases h

/-! ### A word of a known command -/

/-- Clauses (b) to (e) of R79, for a word whose opcode is `o`. -/
def KnownReserved (c : Config) (o : Opcode) (w : CommandWord) : Prop :=
  (o.format = .n ∧ fieldBA w ≠ 0) ∨ (o.format = .a ∧ fieldB w ≠ 0) ∨
    (o.needsAngle = true ∧ c.hasAngle = false) ∨ (o.needsInverse = true ∧ c.hasInverse = false)

theorem decodeKnown_of_reserved {c : Config} {o : Opcode} {w : CommandWord} (h : KnownReserved c o w) :
    ∃ why, decodeKnown c o w = .reserved why := by
  rw [decodeKnown]
  split_ifs with hb hc hd he
  · exact ⟨_, rfl⟩
  · exact ⟨_, rfl⟩
  · exact ⟨_, rfl⟩
  · exact ⟨_, rfl⟩
  · obtain h | h | h | h := h <;> contradiction

theorem decodeKnown_of_not_reserved {c : Config} {o : Opcode} {w : CommandWord} (h : ¬ KnownReserved c o w) :
    decodeKnown c o w = .op (o.instr w) := by
  simp only [KnownReserved, not_or] at h
  obtain ⟨hb, hc, hd, he⟩ := h
  rw [decodeKnown, if_neg hb, if_neg hc, if_neg hd, if_neg he]

/-! ### Every command word -/

/-- The clauses (a) to (e) of R79 on the bits of a command word. -/
def IsReservedWord (c : Config) (w : CommandWord) : Prop :=
  (opcField w).toNat ∉ [0x01, 0x02, 0x03, 0x04, 0x10, 0x11, 0x12, 0x13, 0x14, 0x18, 0x19, 0x1A] ∨
  ((opcField w).toNat ∈ [0x01, 0x02, 0x03, 0x04] ∧ fieldBA w ≠ 0) ∨
  ((opcField w).toNat ∈ [0x10, 0x11, 0x18] ∧ fieldB w ≠ 0) ∨
  (c.hasAngle = false ∧ (opcField w).toNat ∈ [0x12, 0x19]) ∨
  (c.hasInverse = false ∧ (opcField w).toNat ∈ [0x18, 0x19, 0x1A])

/-- With an opcode of the map, clause (a) is out and the others speak of the command. -/
theorem isReservedWord_iff_of_known {c : Config} {w : CommandWord} {o : Opcode} (h : opcField w = o.bits) :
    IsReservedWord c w ↔ KnownReserved c o w := by
  rw [IsReservedWord, KnownReserved, h, bits_mem_formatN, bits_mem_formatA, bits_mem_angle, bits_mem_inverse,
    or_iff_right (not_not_intro (bits_mem_opcodeMap o)), and_comm (a := c.hasAngle = false),
    and_comm (a := c.hasInverse = false)]

/-- A command word is reserved and decodes as reserved, or it is not and decodes to an operation. -/
theorem decodeCommand_cases (c : Config) (w : CommandWord) :
    (IsReservedWord c w ∧ ∃ why, decodeCommand c w = .reserved why) ∨
      (¬ IsReservedWord c w ∧ ∃ i, decodeCommand c w = .op i) := by
  cases ho : Opcode.ofBits (opcField w) with
  | none => exact .inl ⟨.inl (not_mem_opcodeMap_of_ofBits_none ho), .unknownOpcode, by rw [decodeCommand, ho]⟩
  | some o =>
    have hw : opcField w = o.bits := ofBits_eq_some _ o ho
    rw [isReservedWord_iff_of_known hw, decodeCommand_of_known hw]
    by_cases hr : KnownReserved c o w
    · exact .inl ⟨hr, decodeKnown_of_reserved hr⟩
    · exact .inr ⟨hr, o.instr w, decodeKnown_of_not_reserved hr⟩

end Sys2Proof

namespace Sys2Proof.Machine

/-! ### The step on a decoded word -/

theorem State.consume_of_presented {s : State} {w : PortWord} {rest : List PortWord} (h : s.presented = w :: rest) :
    s.consume = { s with presented := rest } := by
  rw [State.consume, h, List.tail_cons]

theorem step_of_decode_op {s : State} {w : PortWord} {rest : List PortWord} {i : Instr}
    (h : s.presented = w :: rest) (hd : decode s.cfg w = .op i) : step s = exec i { s with presented := rest } := by
  rw [step_word h, hd, ← State.consume_of_presented h]

theorem step_of_decode_reserved {s : State} {w : PortWord} {rest : List PortWord} {why : Reserved}
    (h : s.presented = w :: rest) (hd : decode s.cfg w = .reserved why) :
    step s = .next { s with presented := rest, responses := ⟨.err .reserved, 0⟩ :: s.responses } := by
  rw [step_word h, hd, State.consume_of_presented h]
  rfl

/-- Settles O4: the two cases of decoding a command word, each with its step. -/
theorem reservedCommandWords : Obligations.ReservedCommandWords := by
  intro s w rest hp opc isReserved
  have hiff : isReserved ↔ IsReservedWord s.cfg w := Iff.rfl
  rw [hiff]
  obtain ⟨hr, why, hd⟩ | ⟨hr, i, hd⟩ := decodeCommand_cases s.cfg w
  · exact ⟨fun _ => step_of_decode_reserved hp hd, fun hn => absurd hr hn⟩
  · exact ⟨fun hr' => absurd hr' hr, fun _ => ⟨i, hd, step_of_decode_op hp hd⟩⟩

end Sys2Proof.Machine

/-!
The producer's events (R100 to R111): the key and the table by which a transition is classified, and what `EDGE` and
`BTN` do to a state, written out as updates of the record.
-/

namespace Sys2Proof.Machine

/-! ### Classifying a transition -/

/-- The concatenation of R101 as a shift and a union of bits: the two parts do not overlap. -/
theorem transitionKey_eq_or_shiftLeft (prev new : LevelPair) :
    transitionKey prev new = (prev.setWidth 4 ||| (new.setWidth 4 <<< 2)) := by
  rw [transitionKey, BitVec.append_def, BitVec.shiftLeftZeroExtend_eq, BitVec.setWidth'_eq, BitVec.or_comm]

/-- A class of keys has one delta when the table has it at every index of the class (R102). -/
theorem delta_eq_of_toNat_mem {keys : List Nat} {d : Int} (table : ∀ n ∈ keys, transitionTable.getD n 0 = d) (k : Key)
    (hk : k.toNat ∈ keys) : delta k = d :=
  table k.toNat hk

/-- Settles O23: the two forms of the key, and the five classes read off the table. -/
theorem transitionKeyAndTable : Obligations.TransitionKeyAndTable := by
  refine ⟨fun prev new => ⟨transitionKey_eq_or_shiftLeft prev new, rfl⟩, fun k => ⟨?_, ?_, ?_, ?_, ?_⟩⟩
  · exact delta_eq_of_toNat_mem (by decide) k
  · exact delta_eq_of_toNat_mem (by decide) k
  · exact delta_eq_of_toNat_mem (by decide) k
  · exact delta_eq_of_toNat_mem (by decide) k
  · exact delta_eq_of_toNat_mem (by decide) k

/-! ### The events as updates of the record -/

/-- An event whose condition for `pending` is a parameter sets the flag under it and keeps it otherwise (R104, R111). -/
theorem State.notePending_eq_ite (s : State) (on : Bool) :
    s.notePending on = { s with pending := if on then true else s.pending } := by
  cases on with
  | true => simp [State.notePending]
  | false => simp [State.notePending]

/-- A classified transition, with the accumulator wrapped at its 32 bits (R11, R104). -/
theorem State.classify_eq (s : State) (new : LevelPair) :
    s.classify new = { s with
      acc := BitVec.ofInt 32 (s.acc.toInt + delta (transitionKey s.prev new)), prev := new, pending := true } := rfl

/-- `EDGE` with the stored levels is ignored, up to `PENDING_ON_NOCHANGE` (R104). -/
theorem exec_edge_of_eq {a b : Level} {s : State} (h : levelPair a b = s.prev) :
    exec (.edge a b) s = .next (s.notePending s.cfg.pendingOnNochange) := if_pos h

/-- `EDGE` with other levels is classified (R104). -/
theorem exec_edge_of_ne {a b : Level} {s : State} (h : levelPair a b ≠ s.prev) :
    exec (.edge a b) s = .next (s.classify (levelPair a b)) := if_neg h

/-- `BTN` samples the switch and notes the sample under `PENDING_ON_BUTTON` (R111). -/
theorem exec_btn (sw : Level) (s : State) :
    exec (.btn sw) s = .next ((s.samplePressed sw).notePending s.cfg.pendingOnButton) := rfl

/-- Settles O25: the two branches of R104, each as an update of the record. -/
theorem edgeUpdatesTheRecord : Obligations.EdgeUpdatesTheRecord := by
  refine fun a b s => ⟨rfl, fun same => ?_, fun changed => ?_⟩
  · rw [exec_edge_of_eq same, State.notePending_eq_ite]
  · rw [exec_edge_of_ne changed, State.classify_eq, levelPair]

/-- Settles O27: the sample, and the flag under the parameter. -/
theorem btnSamplesTheSwitch : Obligations.BtnSamplesTheSwitch := by
  refine fun sw s => ⟨rfl, ?_⟩
  rw [exec_btn, State.notePending_eq_ite, State.samplePressed]

end Sys2Proof.Machine

/-!
The consumer's commands to the decoder (R120 to R130): the response each of them sends, and the state it leaves.
-/

namespace Sys2Proof.Machine

/-! ### The data of a response -/

theorem enc_zero (n : Nat) : enc n 0 = 0 := enc_natCast n 0

/-- A Boolean result as the data of a response (R78). -/
theorem enc_boolResult (n : Nat) (b : Bool) : enc n (boolResult b) = if b then 1 else 0 := by
  cases b with
  | false => exact enc_zero n
  | true => exact enc_natCast n 1

/-- The data of a response carries the accumulator's own bit pattern, sign and all (R78, R124). -/
theorem succeed_sext_acc (a : BitVec Config.accW) (s : State) : succeed (sext a) s = .next (s.respond ⟨.ok, a⟩) :=
  (succeed_eq (sext a) s).trans (congrArg (fun d => Host.Outcome.next (s.respond ⟨.ok, d⟩)) (enc_sext a))

/-! ### What each command does -/

/-- `HASPENDING` only answers, with the stored flag (R121). -/
theorem exec_haspending (s : State) :
    exec .haspending s = .next (s.respond ⟨.ok, if s.pending then 1 else 0⟩) := by
  have run : exec .haspending s = succeed (boolResult s.pending) s := rfl
  rw [run, succeed_eq, enc_boolResult]

/-- `TAKE` answers the accumulator as it was before it is zeroed (R124). -/
theorem exec_take (s : State) : exec .take s = .next (s.zeroAcc.respond ⟨.ok, s.acc⟩) :=
  succeed_sext_acc s.acc s.zeroAcc

/-- `ISPRESSED` only answers, with the stored sample (R127). -/
theorem exec_ispressed (s : State) :
    exec .ispressed s = .next (s.respond ⟨.ok, if s.pressed then 1 else 0⟩) := by
  have run : exec .ispressed s = succeed (boolResult s.pressed) s := rfl
  rw [run, succeed_eq, enc_boolResult]

/-- `ACK` clears the flag and answers 0 (R130). -/
theorem exec_ack (s : State) : exec .ack s = .next (s.clearPending.respond ⟨.ok, 0⟩) := by
  have run : exec .ack s = succeed 0 s.clearPending := rfl
  rw [run, succeed_eq, enc_zero]

/-! ### The commands as updates of the record -/

/-- Settles O31: the word by its fields, and an answer that leaves the record alone. -/
theorem haspendingReturnsTheFlag : Obligations.HaspendingReturnsTheFlag := by
  refine ⟨rfl, fun s => ?_⟩
  rw [exec_haspending, State.respond]

/-- Settles O32: the answer is taken from the state before the accumulator is zeroed, and `pending` stays. -/
theorem takeReturnsAndZeroes : Obligations.TakeReturnsAndZeroes := by
  refine ⟨rfl, fun s => ?_⟩
  rw [exec_take, State.respond, State.zeroAcc]

/-- Settles O33: the word by its fields, and an answer that leaves the record alone. -/
theorem ispressedReturnsTheSample : Obligations.IspressedReturnsTheSample := by
  refine ⟨rfl, fun s => ?_⟩
  rw [exec_ispressed, State.respond]

/-- Settles O34: the flag alone is cleared, and the accumulator stays. -/
theorem ackClearsTheFlag : Obligations.AckClearsTheFlag := by
  refine ⟨rfl, fun s => ?_⟩
  rw [exec_ack, State.respond, State.clearPending]

end Sys2Proof.Machine

/-!
The converter's forward commands (R140 to R157): the integer formulas of the model read over the naturals, where the
data of a response is written, and then what each command answers and writes, its errors before its formula (R193).
-/

namespace Sys2Proof

/-- An angle command in the two-operand format has no clause of R79 before (d): without `HAS_ANGLE` it is reserved for
that reason. -/
theorem decodeKnown_of_angleAbsent {c : Config} {o : Opcode} (hf : o.format = .ab) (ho : o.needsAngle = true)
    (hc : c.hasAngle = false) (w : CommandWord) : decodeKnown c o w = .reserved .angleAbsent := by
  have hb : ¬ (o.format = .n ∧ fieldBA w ≠ 0) := by simp [hf]
  have ha : ¬ (o.format = .a ∧ fieldB w ≠ 0) := by simp [hf]
  rw [decodeKnown, if_neg hb, if_neg ha, if_pos ⟨ho, hc⟩]

end Sys2Proof

namespace Sys2Proof.Machine

/-! ### The formulas over the naturals -/

/-- A command whose result is a natural number answers that number as 32 bits. -/
theorem succeed_natCast (n : Nat) (s : State) : succeed (n : Int) s = .next (s.respond ⟨.ok, BitVec.ofNat 32 n⟩) := by
  rw [succeed_eq, enc_natCast]

theorem succeed_zero (s : State) : succeed 0 s = .next (s.respond ⟨.ok, 0⟩) := succeed_natCast 0 s

/-- `clamp` of R17 as a minimum and a maximum, for ends in order. -/
theorem clamp_eq_max_min {v lo hi : Int} (h : lo ≤ hi) : clamp v lo hi = max lo (min hi v) := by
  rcases lt_or_ge v lo with below | above
  · rw [clamp_of_lt below]
    omega
  · rcases le_or_gt v hi with mem | beyond
    · rw [clamp_of_mem above mem]
      omega
    · rw [clamp_of_gt h beyond]
      omega

/-- A value clamped to 0 and `whole` is a natural number. -/
theorem clamp_zero_natCast (v : Int) (whole : Nat) : clamp v 0 whole = ((max 0 (min (whole : Int) v)).toNat : Int) := by
  rw [clamp_eq_max_min (Int.natCast_nonneg whole), Int.toNat_of_nonneg (le_max_left 0 _)]

/-- A fraction of bounds in order, as a formula over the naturals (R146, R149). -/
theorem fractionToPulseWidth_natCast {s : State} {c whole : Nat} (h : s.minUs < s.maxUs) (hw : 0 < whole) :
    fractionToPulseWidth s c whole =
      ((s.minUs.toNat + (s.maxUs.toNat - s.minUs.toNat) * c / whole : Nat) : Int) := by
  have order : s.minUs.toNat ≤ s.maxUs.toNat := Nat.le_of_lt h
  rw [fractionToPulseWidth_eq h (Int.natCast_nonneg c) (Int.natCast_pos.mpr hw), zext_def, zext_def]
  push_cast [order]
  rfl

/-! ### What each command does -/

/-- `PW2DUTY` answers from its operand and the configuration alone (R142). -/
theorem exec_pw2duty (us : Word16) (s : State) :
    exec (.pw2duty us) s =
      .next (s.respond ⟨.ok, BitVec.ofNat 32 (us.toNat * Config.dutyMax / s.cfg.periodUs)⟩) := by
  have run : exec (.pw2duty us) s = succeed (pulseWidthToDuty Config.dutyMax s.cfg.periodUs (us.toNat : Int)) s := rfl
  rw [run, pulseWidthToDuty_eq us.toNat s.cfg.periodUs_pos, succeed_natCast]

/-- The shape that `PCT2PW` and `ANG2PW` share: the fraction of the bounds at an operand clamped to 0 and `whole`. -/
theorem withBounds_fraction_of_valid {s : State} {whole : Nat} (v : Int) (hb : s.boundsValid = true)
    (h : s.minUs < s.maxUs) (hw : 0 < whole) :
    withBounds s (fractionToPulseWidth s (clamp v 0 whole) whole) =
      .next (s.respond ⟨.ok, BitVec.ofNat 32 (s.minUs.toNat +
        (s.maxUs.toNat - s.minUs.toNat) * (max 0 (min (whole : Int) v)).toNat / whole)⟩) := by
  rw [withBounds_of_valid _ hb, clamp_zero_natCast, fractionToPulseWidth_natCast h hw, succeed_natCast]

/-- `PCT2PW` is the fraction of the bounds at its operand, out of 100 (R146). -/
theorem exec_pct2pw (p : Word16) (s : State) :
    exec (.pct2pw p) s = withBounds s (fractionToPulseWidth s (clamp p.toInt 0 (100 : Nat)) (100 : Nat)) := rfl

/-- `ANG2PW` raises `ERR_ANGLEMAX` before it looks at the bounds (R149, R193). -/
theorem exec_ang2pw_of_zero {angleMax : Word16} (angle : Word16) (s : State) (h : angleMax = 0) :
    exec (.ang2pw angle angleMax) s = raise .angleMax s := if_pos h

/-- `ANG2PW` is the fraction of the bounds at its angle, out of a largest angle that is not 0 (R149). -/
theorem exec_ang2pw_of_ne {angleMax : Word16} (angle : Word16) (s : State) (h : angleMax ≠ 0) :
    exec (.ang2pw angle angleMax) s =
      withBounds s (fractionToPulseWidth s (clamp angle.toInt 0 angleMax.toNat) angleMax.toNat) := if_neg h

/-- `ANG2PW` does not exist without `HAS_ANGLE` (R14, R79 (d)). -/
theorem decode_ang2pw_of_angleAbsent {c : Config} (h : c.hasAngle = false) (angle angleMax : Word16) :
    decode c (encode (.ang2pw angle angleMax)) = .reserved .angleAbsent :=
  (decodeCommand_of_known (opcField_commandWord .ang2pw angleMax angle)).trans
    (decodeKnown_of_angleAbsent rfl rfl h _)

/-- `SETBOUNDS` with bounds in order writes the three fields and answers 0 (R152). -/
theorem exec_setbounds_of_lt {lo hi : Word16} (s : State) (h : lo < hi) :
    exec (.setbounds lo hi) s = .next ((s.setBounds lo hi).respond ⟨.ok, 0⟩) :=
  (execSetbounds_of_lt h).trans (succeed_zero _)

/-- `SETBOUNDS` with bounds out of order only answers the error (R152, R191). -/
theorem exec_setbounds_of_ge {lo hi : Word16} (s : State) (h : hi ≤ lo) :
    exec (.setbounds lo hi) s = .next (s.respond ⟨.err .bounds, 0⟩) :=
  (execSetbounds_of_ge (BitVec.not_lt.mpr h)).trans (raise_eq _ s)

/-- `WRDUTY` with a duty that fits writes it and answers 0 (R156). -/
theorem exec_wrduty_of_le {duty : Word32} (s : State) (h : duty.toNat ≤ Config.dutyMax) :
    exec (.wrduty duty) s = .next ((s.setDuty (duty.setWidth Config.dutyBits)).respond ⟨.ok, 0⟩) :=
  (execWrduty_of_le h).trans (succeed_zero _)

/-- `WRDUTY` with a duty that does not fit only answers the error (R156, R191). -/
theorem exec_wrduty_of_gt {duty : Word32} (s : State) (h : Config.dutyMax < duty.toNat) :
    exec (.wrduty duty) s = .next (s.respond ⟨.err .dutyRange, 0⟩) :=
  (execWrduty_of_gt h).trans (raise_eq _ s)

/-! ### The commands as updates of the record -/

/-- Settles O41: the period is positive in every configuration, so the division is the one of the naturals. -/
theorem pw2dutyComputes : Obligations.Pw2dutyComputes := by
  refine fun us s => ⟨rfl, ?_⟩
  rw [exec_pw2duty, Config.dutyMax_eq, Config.periodUs, State.respond]

/-- Settles O43: without bounds the error, with bounds in order the fraction out of 100. -/
theorem pct2pwComputes : Obligations.Pct2pwComputes := by
  refine fun p s => ⟨rfl, fun noBounds => ?_, fun valid order => ?_⟩
  · rw [exec_pct2pw, withBounds_of_invalid _ noBounds, raise_eq, State.respond]
  · rw [exec_pct2pw, withBounds_fraction_of_valid p.toInt valid order (by decide), State.respond, Nat.cast_ofNat]

/-- Settles O45: the two errors in their order, then the fraction out of the largest angle. -/
theorem ang2pwComputes : Obligations.Ang2pwComputes := by
  refine fun angle angleMax s => ⟨rfl, fun absent => decode_ang2pw_of_angleAbsent absent angle angleMax,
    fun zero => ?_, fun nonzero noBounds => ?_, fun nonzero valid order => ?_⟩
  · rw [exec_ang2pw_of_zero angle s zero, raise_eq, State.respond]
  · rw [exec_ang2pw_of_ne angle s nonzero, withBounds_of_invalid _ noBounds, raise_eq, State.respond]
  · have positive : 0 < angleMax.toNat := BitVec.toNat_pos_of_ne_zero nonzero
    rw [exec_ang2pw_of_ne angle s nonzero, withBounds_fraction_of_valid angle.toInt valid order positive, State.respond]

/-- Settles O47: the operands alone decide between the error and the three fields written together. -/
theorem setboundsUpdatesTheBounds : Obligations.SetboundsUpdatesTheBounds := by
  refine fun lo hi s => ⟨rfl, fun refused => ?_, fun order => ?_⟩
  · rw [exec_setbounds_of_ge s refused, State.respond]
  · rw [exec_setbounds_of_lt s order, State.respond, State.setBounds]

/-- Settles O48: the operand alone decides between the error and the duty written. -/
theorem wrdutyWritesTheDuty : Obligations.WrdutyWritesTheDuty := by
  refine fun duty s => ⟨rfl, fun tooLarge => ?_, fun fits => ?_⟩
  · rw [exec_wrduty_of_gt s tooLarge, State.respond]
  · rw [exec_wrduty_of_le s fits, State.respond, State.setDuty]

end Sys2Proof.Machine

/-!
The converter's inverse commands (R170 to R179): when their words are reserved, their formulas read over the naturals,
and what each command answers, its errors before its formula (R193). None of them changes the record.
-/

namespace Sys2Proof

/-- An inverse command that is no angle command is reserved for clause (e) of R79 without `HAS_INVERSE`, once its word
passes the format clauses (b) and (c). -/
theorem decodeKnown_of_inverseAbsent {c : Config} {o : Opcode} {w : CommandWord} (hn : o.format ≠ .n)
    (hb : o.format = .a → fieldB w = 0) (ha : o.needsAngle = false) (ho : o.needsInverse = true)
    (hc : c.hasInverse = false) : decodeKnown c o w = .reserved .inverseAbsent := by
  have formatN : ¬ (o.format = .n ∧ fieldBA w ≠ 0) := fun h => hn h.1
  have formatA : ¬ (o.format = .a ∧ fieldB w ≠ 0) := fun h => h.2 (hb h.1)
  have angle : ¬ (o.needsAngle = true ∧ c.hasAngle = false) := by simp [ha]
  rw [decodeKnown, if_neg formatN, if_neg formatA, if_neg angle, if_pos ⟨ho, hc⟩]

end Sys2Proof

namespace Sys2Proof.Machine

/-! ### Where the commands do not exist -/

/-- `PW2PCT` does not exist without `HAS_INVERSE` (R14, R79 (e)). -/
theorem decode_pw2pct_of_inverseAbsent {c : Config} (h : c.hasInverse = false) (us : Word16) :
    decode c (encode (.pw2pct us)) = .reserved .inverseAbsent :=
  (decodeCommand_of_known (opcField_commandWord .pw2pct 0 us)).trans
    (decodeKnown_of_inverseAbsent nofun (fun _ => fieldB_commandWord .pw2pct 0 us) rfl rfl h)

/-- `PW2ANG` does not exist without `HAS_ANGLE`, nor without `HAS_INVERSE` (R14, R79 (d) and (e)). -/
theorem decode_pw2ang_of_absent {c : Config} (h : c.hasAngle = false ∨ c.hasInverse = false) (us angleMax : Word16) :
    ∃ why, decode c (encode (.pw2ang us angleMax)) = .reserved why := by
  have known : decode c (encode (.pw2ang us angleMax)) = decodeKnown c .pw2ang (commandWord .pw2ang angleMax us) :=
    decodeCommand_of_known (opcField_commandWord .pw2ang angleMax us)
  have clause : KnownReserved c .pw2ang (commandWord .pw2ang angleMax us) :=
    .inr (.inr (h.imp (fun noAngle => ⟨rfl, noAngle⟩) fun noInverse => ⟨rfl, noInverse⟩))
  rw [known]
  exact decodeKnown_of_reserved clause

/-- `DUTY2PW` does not exist without `HAS_INVERSE` (R14, R79 (e)). -/
theorem decode_duty2pw_of_inverseAbsent {c : Config} (h : c.hasInverse = false) (duty : Word32) :
    decode c (encode (.duty2pw duty)) = .reserved .inverseAbsent :=
  (decodeCommand_of_known (opcField_commandWordW .duty2pw duty)).trans
    (decodeKnown_of_inverseAbsent nofun nofun rfl rfl h)

/-! ### The fraction at a pulse width -/

/-- The fraction at a pulse width within bounds in order, as a formula over the naturals (R172, R175). -/
theorem pulseWidthToFraction_natCast {s : State} (us whole : Nat) (h : s.minUs < s.maxUs) :
    pulseWidthToFraction s us whole =
      (((max s.minUs.toNat (min s.maxUs.toNat us) - s.minUs.toNat) * whole /
        (s.maxUs.toNat - s.minUs.toNat) : Nat) : Int) := by
  have order : s.minUs.toNat ≤ s.maxUs.toNat := Nat.le_of_lt h
  have above : s.minUs.toNat ≤ max s.minUs.toNat (min s.maxUs.toNat us) := le_max_left _ _
  rw [pulseWidthToFraction_eq h (Int.natCast_nonneg whole), zext_def, zext_def,
    clamp_eq_max_min (Int.ofNat_le.mpr order)]
  push_cast [order, above]
  rfl

/-- The shape that `PW2PCT` and `PW2ANG` share: the fraction of `whole` at a pulse width clamped to the bounds. -/
theorem withBounds_pulseWidth_of_valid {s : State} (us whole : Nat) (hb : s.boundsValid = true)
    (h : s.minUs < s.maxUs) :
    withBounds s (pulseWidthToFraction s us whole) =
      .next (s.respond ⟨.ok, BitVec.ofNat 32 ((max s.minUs.toNat (min s.maxUs.toNat us) - s.minUs.toNat) * whole /
        (s.maxUs.toNat - s.minUs.toNat))⟩) := by
  rw [withBounds_of_valid _ hb, pulseWidthToFraction_natCast us whole h, succeed_natCast]

/-! ### What each inverse command does -/

/-- `PW2PCT` is the fraction at its operand, out of 100 (R172). -/
theorem exec_pw2pct (us : Word16) (s : State) :
    exec (.pw2pct us) s = withBounds s (pulseWidthToFraction s us.toNat (100 : Nat)) := rfl

/-- `PW2ANG` raises `ERR_ANGLEMAX` before it looks at the bounds, although it would not divide by 0 (R175, R193). -/
theorem exec_pw2ang_of_zero {angleMax : Word16} (us : Word16) (s : State) (h : angleMax = 0) :
    exec (.pw2ang us angleMax) s = raise .angleMax s := if_pos h

/-- `PW2ANG` is the fraction at its operand, out of a largest angle that is not 0 (R175). -/
theorem exec_pw2ang_of_ne {angleMax : Word16} (us : Word16) (s : State) (h : angleMax ≠ 0) :
    exec (.pw2ang us angleMax) s = withBounds s (pulseWidthToFraction s us.toNat angleMax.toNat) := if_neg h

/-- `DUTY2PW` with a duty that fits answers from its operand and the configuration alone (R178). -/
theorem exec_duty2pw_of_le {duty : Word32} (s : State) (h : duty.toNat ≤ Config.dutyMax) :
    exec (.duty2pw duty) s =
      .next (s.respond ⟨.ok, BitVec.ofNat 32 (duty.toNat * s.cfg.periodUs / Config.dutyMax)⟩) := by
  have fits : ¬ (Config.dutyMax : Int) < zext duty := not_lt.mpr (Int.ofNat_le.mpr h)
  have run : exec (.duty2pw duty) s = succeed (dutyToPulseWidth Config.dutyMax s.cfg.periodUs (duty.toNat : Int)) s :=
    if_neg fits
  rw [run, dutyToPulseWidth_eq duty.toNat (by decide), succeed_natCast]

/-- `DUTY2PW` with a duty that does not fit only answers the error (R178, R191). -/
theorem exec_duty2pw_of_gt {duty : Word32} (s : State) (h : Config.dutyMax < duty.toNat) :
    exec (.duty2pw duty) s = .next (s.respond ⟨.err .dutyRange, 0⟩) := by
  have tooLarge : (Config.dutyMax : Int) < zext duty := Int.ofNat_lt.mpr h
  exact (if_pos tooLarge).trans (raise_eq _ s)

/-! ### The inverse commands as updates of the responses alone -/

/-- Settles O49: without bounds the error, with bounds in order the percentage at the clamped pulse width. -/
theorem pw2pctComputes : Obligations.Pw2pctComputes := by
  refine fun us s => ⟨rfl, fun absent => decode_pw2pct_of_inverseAbsent absent us, fun noBounds => ?_,
    fun valid order => ?_⟩
  · rw [exec_pw2pct, withBounds_of_invalid _ noBounds, raise_eq, State.respond]
  · rw [exec_pw2pct, withBounds_pulseWidth_of_valid us.toNat 100 valid order, State.respond]

/-- Settles O50: the two errors in their order, then the angle at the clamped pulse width. -/
theorem pw2angComputes : Obligations.Pw2angComputes := by
  refine fun us angleMax s => ⟨rfl, fun absent => decode_pw2ang_of_absent absent us angleMax, fun zero => ?_,
    fun nonzero noBounds => ?_, fun nonzero valid order => ?_⟩
  · rw [exec_pw2ang_of_zero us s zero, raise_eq, State.respond]
  · rw [exec_pw2ang_of_ne us s nonzero, withBounds_of_invalid _ noBounds, raise_eq, State.respond]
  · rw [exec_pw2ang_of_ne us s nonzero, withBounds_pulseWidth_of_valid us.toNat angleMax.toNat valid order,
      State.respond]

/-- Settles O52: the operand alone decides between the error and the pulse width of the duty. -/
theorem duty2pwComputes : Obligations.Duty2pwComputes := by
  refine fun duty s => ⟨rfl, fun absent => decode_duty2pw_of_inverseAbsent absent duty, fun tooLarge => ?_,
    fun fits => ?_⟩
  · rw [exec_duty2pw_of_gt s tooLarge, State.respond]
  · rw [exec_duty2pw_of_le s fits, Config.dutyMax_eq, Config.periodUs, State.respond]

end Sys2Proof.Machine

/-!
The host's `RESET` (R220): it clears the record, and the host is sent no response.
-/

namespace Sys2Proof.Machine

/-- `RESET` clears the record from any state and does nothing else (R220). -/
theorem exec_reset (s : State) : exec .reset s = .next s.clearRecord := rfl

/-- Settles O22: the word of port H, and the cleared record with the reset values of R36 written out. -/
theorem resetUpdatesTheRecord : Obligations.ResetUpdatesTheRecord := by
  refine ⟨rfl, fun s => ?_⟩
  rw [exec_reset, State.clearRecord]

end Sys2Proof.Machine

/-!
Words and operations (R70 to R82). A command word of an opcode `o` that passes the format clauses (b) and (c) of R79 is
the one word of the operation `o.instr w`, and it decodes to that operation exactly when the configuration has the
command. Both directions of the round trip are read off this, the lane and host words being few enough to list.
-/

namespace Sys2Proof

/-! ### Command words -/

/-- The word has the opcode of `o` and passes the format clauses (b) and (c) of R79. -/
structure CommandWordOf (o : Opcode) (w : CommandWord) : Prop where
  opc : opcField w = o.bits
  formatN : o.format = .n → fieldBA w = 0
  formatA : o.format = .a → fieldB w = 0

/-- The configuration has the command: clauses (d) and (e) of R79 do not apply. -/
def Opcode.available (c : Config) (o : Opcode) : Prop :=
  (o.needsAngle = true → c.hasAngle = true) ∧ (o.needsInverse = true → c.hasInverse = true)

theorem commandWordOf_formatN {o : Opcode} (h : o.format = .n) : CommandWordOf o (commandWord o 0 0) :=
  ⟨opcField_commandWord o 0 0, fun _ => fieldBA_commandWord_zero o, fun ha => absurd (h.symm.trans ha) nofun⟩

theorem commandWordOf_formatA {o : Opcode} (h : o.format = .a) (a : Word16) : CommandWordOf o (commandWord o 0 a) :=
  ⟨opcField_commandWord o 0 a, fun hn => absurd (h.symm.trans hn) nofun, fun _ => fieldB_commandWord o 0 a⟩

theorem commandWordOf_formatAB {o : Opcode} (h : o.format = .ab) (b a : Word16) :
    CommandWordOf o (commandWord o b a) :=
  ⟨opcField_commandWord o b a, fun hn => absurd (h.symm.trans hn) nofun, fun ha => absurd (h.symm.trans ha) nofun⟩

theorem commandWordOf_formatW {o : Opcode} (h : o.format = .w) (d : Word32) : CommandWordOf o (commandWordW o d) :=
  ⟨opcField_commandWordW o d, fun hn => absurd (h.symm.trans hn) nofun, fun ha => absurd (h.symm.trans ha) nofun⟩

/-- An operation of the consumer is the operation of some well-formatted command word. -/
theorem exists_commandWordOf {i : Instr} (hi : i.agent = .consumer) :
    ∃ (o : Opcode) (w : CommandWord), CommandWordOf o w ∧ o.instr w = i := by
  cases i with
  | edge a b => cases hi
  | btn sw => cases hi
  | reset => cases hi
  | haspending => exact ⟨.haspending, _, commandWordOf_formatN rfl, rfl⟩
  | take => exact ⟨.take, _, commandWordOf_formatN rfl, rfl⟩
  | ispressed => exact ⟨.ispressed, _, commandWordOf_formatN rfl, rfl⟩
  | ack => exact ⟨.ack, _, commandWordOf_formatN rfl, rfl⟩
  | pw2duty us => exact ⟨.pw2duty, _, commandWordOf_formatA rfl us, by simp [Opcode.instr]⟩
  | pct2pw p => exact ⟨.pct2pw, _, commandWordOf_formatA rfl p, by simp [Opcode.instr]⟩
  | ang2pw angle angleMax => exact ⟨.ang2pw, _, commandWordOf_formatAB rfl angleMax angle, by simp [Opcode.instr]⟩
  | setbounds minUs maxUs => exact ⟨.setbounds, _, commandWordOf_formatAB rfl maxUs minUs, by simp [Opcode.instr]⟩
  | wrduty duty => exact ⟨.wrduty, _, commandWordOf_formatW rfl duty, by simp [Opcode.instr]⟩
  | pw2pct us => exact ⟨.pw2pct, _, commandWordOf_formatA rfl us, by simp [Opcode.instr]⟩
  | pw2ang us angleMax => exact ⟨.pw2ang, _, commandWordOf_formatAB rfl angleMax us, by simp [Opcode.instr]⟩
  | duty2pw duty => exact ⟨.duty2pw, _, commandWordOf_formatW rfl duty, by simp [Opcode.instr]⟩

/-- Encoding the operation of a well-formatted command word gives the word: its operand fields carry every bit that its
format leaves free (R74, R77). -/
theorem encode_instr {o : Opcode} {w : CommandWord} (h : CommandWordOf o w) : encode (o.instr w) = .portC w := by
  have formatN (hf : o.format = .n) : commandWord o 0 0 = w := by
    obtain ⟨ha, hb⟩ := fields_of_fieldBA_zero (h.formatN hf)
    simpa [ha, hb] using commandWord_fields h.opc
  have formatA (hf : o.format = .a) : commandWord o 0 (fieldA w) = w := by
    simpa [h.formatA hf] using commandWord_fields h.opc
  have formatAB : commandWord o (fieldB w) (fieldA w) = w := commandWord_fields h.opc
  have formatW : commandWordW o (fieldBA w) = w := commandWordW_fields h.opc
  cases o with
  | haspending => exact congrArg PortWord.portC (formatN rfl)
  | take => exact congrArg PortWord.portC (formatN rfl)
  | ispressed => exact congrArg PortWord.portC (formatN rfl)
  | ack => exact congrArg PortWord.portC (formatN rfl)
  | pw2duty => exact congrArg PortWord.portC (formatA rfl)
  | pct2pw => exact congrArg PortWord.portC (formatA rfl)
  | ang2pw => exact congrArg PortWord.portC formatAB
  | setbounds => exact congrArg PortWord.portC formatAB
  | wrduty => exact congrArg PortWord.portC formatW
  | pw2pct => exact congrArg PortWord.portC (formatA rfl)
  | pw2ang => exact congrArg PortWord.portC formatAB
  | duty2pw => exact congrArg PortWord.portC formatW

/-- The configuration has the operation of a command word exactly when it has the command (R14). -/
theorem wellFormed_instr (c : Config) (o : Opcode) (w : CommandWord) :
    (o.instr w).wellFormed c = true ↔ o.available c := by
  cases o <;> simp [Opcode.instr, Instr.wellFormed, Opcode.available, Opcode.needsAngle, Opcode.needsInverse]

/-- Every configuration has the operations of the producer and of the host (R14). -/
theorem wellFormed_of_agent_ne_consumer (c : Config) {i : Instr} (h : i.agent ≠ .consumer) :
    i.wellFormed c = true := by
  cases i with
  | edge a b => rfl
  | btn sw => rfl
  | reset => rfl
  | _ => exact absurd rfl h

/-- For an opcode of the map, the clauses (b) to (e) are the failures of the format and of the configuration. -/
theorem knownReserved_iff {c : Config} {o : Opcode} {w : CommandWord} (h : opcField w = o.bits) :
    KnownReserved c o w ↔ ¬ (CommandWordOf o w ∧ o.available c) := by
  constructor
  · rintro (⟨hf, hz⟩ | ⟨hf, hz⟩ | ⟨hn, ha⟩ | ⟨hn, ha⟩) ⟨hw, hangle, hinverse⟩
    · exact hz (hw.formatN hf)
    · exact hz (hw.formatA hf)
    · exact absurd (hangle hn) (by simp [ha])
    · exact absurd (hinverse hn) (by simp [ha])
  · intro hnot
    by_contra hres
    simp only [KnownReserved, not_or, not_and, not_not, Bool.not_eq_false] at hres
    obtain ⟨hb, hc, hd, he⟩ := hres
    exact hnot ⟨⟨h, hb, hc⟩, hd, he⟩

/-- A command word decodes to an operation exactly when it is a well-formatted word of a command that the configuration
has, and the operation is that of its fields. -/
theorem decodeCommand_eq_op_iff {c : Config} {w : CommandWord} {i : Instr} :
    decodeCommand c w = .op i ↔ ∃ o, CommandWordOf o w ∧ o.available c ∧ o.instr w = i := by
  constructor
  · intro hd
    cases ho : Opcode.ofBits (opcField w) with
    | none => simp [decodeCommand, ho] at hd
    | some o =>
      have hw : opcField w = o.bits := ofBits_eq_some _ o ho
      rw [decodeCommand_of_known hw] at hd
      by_cases hr : KnownReserved c o w
      · obtain ⟨why, hwhy⟩ := decodeKnown_of_reserved hr
        simp [hwhy] at hd
      · rw [decodeKnown_of_not_reserved hr, Decoded.op.injEq] at hd
        obtain ⟨hof, hav⟩ := not_not.mp ((knownReserved_iff hw).not.mp hr)
        exact ⟨o, hof, hav, hd⟩
  · rintro ⟨o, hof, hav, rfl⟩
    rw [decodeCommand_of_known hof.opc]
    exact decodeKnown_of_not_reserved ((knownReserved_iff hof.opc).not.mpr (not_not.mpr ⟨hof, hav⟩))

/-! ### Lane and host words -/

theorem decodeLaneQ_of_lt : ∀ w : LaneQWord, w.toNat < 4 → decodeLaneQ w = .noEvent := by decide

theorem decodeLaneQ_of_ge : ∀ w : LaneQWord, 4 ≤ w.toNat →
    decodeLaneQ w = .op (.edge (w.extractLsb' 1 1) (w.extractLsb' 0 1)) := by decide

theorem decodeLaneS_of_lt : ∀ w : LaneSWord, w.toNat < 2 → decodeLaneS w = .noEvent := by decide

theorem decodeLaneS_of_ge : ∀ w : LaneSWord, 2 ≤ w.toNat → decodeLaneS w = .op (.btn (w.extractLsb' 0 1)) := by decide

/-- The event word of a lane Q word with the event bit is the word itself. -/
theorem encode_edge_of_ge : ∀ w : LaneQWord, 4 ≤ w.toNat →
    encode (.edge (w.extractLsb' 1 1) (w.extractLsb' 0 1)) = .laneQ w := by decide

/-- The event word of a lane S word with the event bit is the word itself. -/
theorem encode_btn_of_ge : ∀ w : LaneSWord, 2 ≤ w.toNat → encode (.btn (w.extractLsb' 0 1)) = .laneS w := by decide

theorem decode_encode_edge (c : Config) : ∀ a b : Level, decode c (encode (.edge a b)) = .op (.edge a b) := by
  have table : ∀ a b : Level, decodeLaneQ (1#1 ++ a ++ b) = .op (.edge a b) := by decide
  exact table

theorem decode_encode_btn (c : Config) : ∀ sw : Level, decode c (encode (.btn sw)) = .op (.btn sw) := by
  have table : ∀ sw : Level, decodeLaneS (1#1 ++ sw) = .op (.btn sw) := by decide
  exact table

/-! ### The round trip -/

/-- Decoding the word of an operation gives it back (R82). -/
theorem decode_encode {c : Config} {i : Instr} (h : i.wellFormed c = true) : decode c (encode i) = .op i := by
  cases hi : i.agent with
  | producer =>
    cases i with
    | edge a b => exact decode_encode_edge c a b
    | btn sw => exact decode_encode_btn c sw
    | _ => cases hi
  | host =>
    cases i with
    | reset => rfl
    | _ => cases hi
  | consumer =>
    obtain ⟨o, w, hof, rfl⟩ := exists_commandWordOf hi
    rw [encode_instr hof]
    exact decodeCommand_eq_op_iff.mpr ⟨o, hof, (wellFormed_instr c o w).mp h, rfl⟩

/-- The word of an operation that the configuration does not have is reserved (R14, R79). -/
theorem decode_encode_of_absent {c : Config} {i : Instr} (h : i.wellFormed c ≠ true) :
    ∃ why, decode c (encode i) = .reserved why := by
  have hi : i.agent = .consumer := by
    by_contra hi
    exact h (wellFormed_of_agent_ne_consumer c hi)
  obtain ⟨o, w, hof, rfl⟩ := exists_commandWordOf hi
  have hr : KnownReserved c o w :=
    (knownReserved_iff hof.opc).mpr fun hav => h ((wellFormed_instr c o w).mpr hav.2)
  obtain ⟨why, hd⟩ := decodeKnown_of_reserved hr
  exact ⟨why, by rw [encode_instr hof, decode, decodeCommand_of_known hof.opc, hd]⟩

/-- A word that decodes to an operation is the word of that operation, which the configuration has. -/
theorem encode_of_decode {c : Config} {w : PortWord} {i : Instr} (h : decode c w = .op i) :
    encode i = w ∧ i.wellFormed c = true := by
  cases w with
  | laneQ w =>
    rw [decode] at h
    rcases lt_or_ge w.toNat 4 with idle | event
    · simp [decodeLaneQ_of_lt w idle] at h
    · rw [decodeLaneQ_of_ge w event, Decoded.op.injEq] at h
      exact h ▸ ⟨encode_edge_of_ge w event, rfl⟩
  | laneS w =>
    rw [decode] at h
    rcases lt_or_ge w.toNat 2 with idle | event
    · simp [decodeLaneS_of_lt w idle] at h
    · rw [decodeLaneS_of_ge w event, Decoded.op.injEq] at h
      exact h ▸ ⟨encode_btn_of_ge w event, rfl⟩
  | portC w =>
    obtain ⟨o, hof, hav, rfl⟩ := decodeCommand_eq_op_iff.mp h
    exact ⟨encode_instr hof, (wellFormed_instr c o w).mpr hav⟩
  | portH w =>
    rw [decode, decodeHost] at h
    split_ifs at h with hw
    cases h
    exact ⟨congrArg PortWord.portH hw.symm, rfl⟩

/-- An operation's word stands at the port of its agent (R198). -/
theorem encode_agent (i : Instr) : (encode i).agent = i.agent := by cases i <;> rfl

/-- Settles O1: the round trip, from an operation to its word and back. -/
theorem encodedWordDecodesToItsOperation : Obligations.EncodedWordDecodesToItsOperation :=
  fun _ _ h => decode_encode h

/-- Settles O2: the round trip, from a word to its operation and back. -/
theorem decodedOperationHasOneWord : Obligations.DecodedOperationHasOneWord :=
  fun _ _ _ h => encode_of_decode h

/-- Settles O6: the word is the operation's own, and that one stands at the port of the operation's agent. -/
theorem portsFixTheAgent : Obligations.PortsFixTheAgent := by
  intro c w i h
  obtain ⟨rfl, -⟩ := encode_of_decode h
  exact (encode_agent i).symm

/-- Settles O3: each of the ten words is the word of its operation, and decodes to it. -/
theorem writtenWordsDecode : Obligations.WrittenWordsDecode := by
  intro c hangle hinverse
  have decodes {w : PortWord} (i : Instr) (hw : encode i = w) (h : i.wellFormed c = true) : decode c w = .op i :=
    hw ▸ decode_encode h
  exact ⟨decodes _ (by decide) rfl, decodes _ (by decide) rfl, decodes _ (by decide) rfl, decodes _ (by decide) rfl,
    decodes _ (by decide) rfl, decodes _ (by decide) rfl, decodes _ (by decide) hangle, decodes _ (by decide) rfl,
    decodes _ (by decide) rfl, decodes _ (by decide) (by simp [Instr.wellFormed, hangle, hinverse])⟩

end Sys2Proof

namespace Sys2Proof.Machine

/-! ### Words that are no command -/

theorem step_of_decode_noEvent {s : State} {w : PortWord} {rest : List PortWord} (h : s.presented = w :: rest)
    (hd : decode s.cfg w = .noEvent) : step s = .next { s with presented := rest } := by
  rw [step_word h, hd, State.consume_of_presented h]

/-- Settles O5: at each port, the words below the event bit and the words with it. -/
theorem laneAndHostWords : Obligations.LaneAndHostWords := by
  refine fun s rest => ⟨fun w hp => ⟨fun idle => ?_, fun event => ?_⟩, fun w hp => ⟨fun idle => ?_, fun event => ?_⟩,
    fun w hp => ⟨fun idle => ?_, fun event => ?_⟩⟩
  · exact step_of_decode_noEvent hp (decodeLaneQ_of_lt w idle)
  · exact step_of_decode_op hp (decodeLaneQ_of_ge w event)
  · exact step_of_decode_noEvent hp (decodeLaneS_of_lt w idle)
  · exact step_of_decode_op hp (decodeLaneS_of_ge w event)
  · subst idle; exact step_of_decode_noEvent hp rfl
  · subst event; exact step_of_decode_op hp rfl

/-! ### The response word -/

/-- The status of a response is in the upper bits of its word (R75). -/
theorem responseWord_status (r : Response) : (responseWord r).extractLsb' 32 4 = statusCode r.st := by
  apply BitVec.eq_of_toNat_eq
  rw [responseWord, extract_toNat, append_toNat]
  have := (statusCode r.st).isLt; have := r.data.isLt
  omega

/-- The data of a response is in the lower bits of its word (R75). -/
theorem responseWord_data (r : Response) : (responseWord r).extractLsb' 0 32 = r.data := by
  apply BitVec.eq_of_toNat_eq
  rw [responseWord, extract_toNat, append_toNat]
  have := (statusCode r.st).isLt; have := r.data.isLt
  omega

/-- The codes are 0 to 5, and 0 is `OK` alone (R192). -/
theorem statusCode_mem (st : Status) : (statusCode st).toNat ≤ 5 ∧ (statusCode st = 0 ↔ st = .ok) := by
  cases st with
  | ok => decide
  | err e =>
    obtain ⟨low, high⟩ := errCode_mem e
    refine ⟨high, fun h => ?_, nofun⟩
    rw [show errCode e = 0 from h] at low
    exact absurd low (by decide)

/-- Settles O7: the two fields, and the codes of the six values. -/
theorem responseWordFields : Obligations.ResponseWordFields := by
  refine ⟨fun r => ?_, rfl⟩
  obtain ⟨high, zero⟩ := statusCode_mem r.st
  exact ⟨responseWord_status r, responseWord_data r, high, zero⟩

end Sys2Proof.Machine

/-!
What an operation does, said once (R100 to R180): an update of the record and the responses it sends. Claims about every
operation are read off these two functions, which `exec_eq` ties to `exec`.
-/

namespace Sys2Proof.Machine

/-! ### `EDGE` without a branch -/

/-- The state after an `EDGE` with the levels `new`, classified or not, in the branch-free form of R105. -/
def State.afterEdge (s : State) (new : LevelPair) : State :=
  { s with
    acc := accumulate s.acc (delta (transitionKey s.prev new))
    prev := new
    pending := s.pending || (decide (new ≠ s.prev) || s.cfg.pendingOnNochange) }

section
variable (s : State) (new : LevelPair)

@[simp] theorem State.afterEdge_cfg : (s.afterEdge new).cfg = s.cfg := rfl
@[simp] theorem State.afterEdge_prev : (s.afterEdge new).prev = new := rfl
@[simp] theorem State.afterEdge_acc :
    (s.afterEdge new).acc = accumulate s.acc (delta (transitionKey s.prev new)) := rfl
@[simp] theorem State.afterEdge_pressed : (s.afterEdge new).pressed = s.pressed := rfl
@[simp] theorem State.afterEdge_pending : (s.afterEdge new).pending =
    (s.pending || (decide (new ≠ s.prev) || s.cfg.pendingOnNochange)) := rfl
@[simp] theorem State.afterEdge_minUs : (s.afterEdge new).minUs = s.minUs := rfl
@[simp] theorem State.afterEdge_maxUs : (s.afterEdge new).maxUs = s.maxUs := rfl
@[simp] theorem State.afterEdge_boundsValid : (s.afterEdge new).boundsValid = s.boundsValid := rfl
@[simp] theorem State.afterEdge_dutyOut : (s.afterEdge new).dutyOut = s.dutyOut := rfl
@[simp] theorem State.afterEdge_presented : (s.afterEdge new).presented = s.presented := rfl
@[simp] theorem State.afterEdge_responses : (s.afterEdge new).responses = s.responses := rfl

end

/-- `EDGE` is its branch-free form: equal levels have delta 0 and are stored already (R105). -/
theorem exec_edge (a b : Level) (s : State) : exec (.edge a b) s = .next (s.afterEdge (levelPair a b)) := by
  by_cases h : levelPair a b = s.prev
  · rw [exec_edge_of_eq h, State.afterEdge, State.notePending, h, delta_same, accumulate_zero]
    simp
  · rw [exec_edge_of_ne h, State.classify, State.afterEdge]
    simp [h]

/-! ### The update and the responses of an operation -/

/-- Send responses, the newest first. -/
def State.send (s : State) (rs : List Response) : State := { s with responses := rs ++ s.responses }

/-- What an operation writes. -/
def updateOf : Instr → State → State
  | .edge a b, s => s.afterEdge (levelPair a b)
  | .btn sw, s => (s.samplePressed sw).notePending s.cfg.pendingOnButton
  | .reset, s => s.clearRecord
  | .take, s => s.zeroAcc
  | .ack, s => s.clearPending
  | .setbounds lo hi, s => if lo < hi then s.setBounds lo hi else s
  | .wrduty d, s => if d.toNat ≤ Config.dutyMax then s.setDuty (d.setWidth Config.dutyBits) else s
  | .haspending, s | .ispressed, s | .pw2duty _, s | .pct2pw _, s | .ang2pw _ _, s | .pw2pct _, s | .pw2ang _ _, s
  | .duty2pw _, s => s

/-- The response of a command that reads the bounds and returns `v`. -/
def boundsResponse (s : State) (v : Int) : Response := if s.boundsValid then ⟨.ok, enc 32 v⟩ else ⟨.err .noBounds, 0⟩

/-- What an operation sends: nothing for an event and `RESET`, one response for a command. -/
def responsesOf : Instr → State → List Response
  | .edge _ _, _ | .btn _, _ | .reset, _ => []
  | .haspending, s => [⟨.ok, if s.pending then 1 else 0⟩]
  | .take, s => [⟨.ok, s.acc⟩]
  | .ispressed, s => [⟨.ok, if s.pressed then 1 else 0⟩]
  | .ack, _ => [⟨.ok, 0⟩]
  | .pw2duty us, s => [⟨.ok, enc 32 (pulseWidthToDuty Config.dutyMax s.cfg.periodUs (zext us))⟩]
  | .pct2pw p, s => [boundsResponse s (fractionToPulseWidth s (clamp (sext p) 0 100) 100)]
  | .ang2pw angle angleMax, s =>
    if angleMax = 0 then [⟨.err .angleMax, 0⟩]
    else [boundsResponse s (fractionToPulseWidth s (clamp (sext angle) 0 (zext angleMax)) (zext angleMax))]
  | .setbounds lo hi, _ => if lo < hi then [⟨.ok, 0⟩] else [⟨.err .bounds, 0⟩]
  | .wrduty d, _ => if d.toNat ≤ Config.dutyMax then [⟨.ok, 0⟩] else [⟨.err .dutyRange, 0⟩]
  | .pw2pct us, s => [boundsResponse s (pulseWidthToFraction s (zext us) 100)]
  | .pw2ang us angleMax, s =>
    if angleMax = 0 then [⟨.err .angleMax, 0⟩]
    else [boundsResponse s (pulseWidthToFraction s (zext us) (zext angleMax))]
  | .duty2pw d, s =>
    if d.toNat ≤ Config.dutyMax then [⟨.ok, enc 32 (dutyToPulseWidth Config.dutyMax s.cfg.periodUs (zext d))⟩]
    else [⟨.err .dutyRange, 0⟩]

theorem withBounds_eq (s : State) (v : Int) : withBounds s v = .next (s.respond (boundsResponse s v)) := by
  cases hb : s.boundsValid with
  | true => rw [withBounds_of_valid v hb, succeed_eq, boundsResponse, if_pos hb]
  | false => rw [withBounds_of_invalid v hb, raise_eq, boundsResponse, hb, if_neg nofun]

/-- Every operation from every state: its update, then its responses. -/
theorem exec_eq (i : Instr) (s : State) : exec i s = .next ((updateOf i s).send (responsesOf i s)) := by
  cases i with
  | edge a b => exact exec_edge a b s
  | btn sw => rfl
  | reset => rfl
  | haspending => exact exec_haspending s
  | take => exact exec_take s
  | ispressed => exact exec_ispressed s
  | ack => exact exec_ack s
  | pw2duty us => rfl
  | pct2pw p => exact withBounds_eq s _
  | ang2pw angle angleMax =>
    by_cases h : angleMax = 0
    · rw [exec_ang2pw_of_zero angle s h, responsesOf, if_pos h]; rfl
    · rw [responsesOf, if_neg h]
      exact (exec_ang2pw_of_ne angle s h).trans (withBounds_eq s _)
  | setbounds lo hi =>
    by_cases h : lo < hi
    · rw [exec_setbounds_of_lt s h, updateOf, responsesOf, if_pos h, if_pos h]; rfl
    · rw [exec_setbounds_of_ge s (BitVec.not_lt.mp h), updateOf, responsesOf, if_neg h, if_neg h]; rfl
  | wrduty d =>
    by_cases h : d.toNat ≤ Config.dutyMax
    · rw [exec_wrduty_of_le s h, updateOf, responsesOf, if_pos h, if_pos h]; rfl
    · rw [exec_wrduty_of_gt s (Nat.not_le.mp h), updateOf, responsesOf, if_neg h, if_neg h]; rfl
  | pw2pct us => exact withBounds_eq s _
  | pw2ang us angleMax =>
    by_cases h : angleMax = 0
    · rw [exec_pw2ang_of_zero us s h, responsesOf, if_pos h]; rfl
    · rw [responsesOf, if_neg h]
      exact (exec_pw2ang_of_ne us s h).trans (withBounds_eq s _)
  | duty2pw d =>
    by_cases h : d.toNat ≤ Config.dutyMax
    · rw [responsesOf, if_pos h]
      exact if_neg (not_lt.mpr (Int.ofNat_le.mpr h))
    · rw [exec_duty2pw_of_gt s (Nat.not_le.mp h), responsesOf, if_neg h]; rfl

theorem exec_eq_next_iff {i : Instr} {s t : State} :
    exec i s = .next t ↔ (updateOf i s).send (responsesOf i s) = t := by
  rw [exec_eq, Host.Outcome.next.injEq]

/-- No operation faults or is refused (R190). -/
theorem exists_exec (i : Instr) (s : State) : ∃ t, exec i s = .next t := ⟨_, exec_eq i s⟩

/-! ### What the update leaves unchanged -/

theorem updateOf_cfg (i : Instr) (s : State) : (updateOf i s).cfg = s.cfg := by
  cases i with
  | setbounds lo hi => rw [updateOf]; split <;> rfl
  | wrduty d => rw [updateOf]; split <;> rfl
  | _ => rfl

theorem updateOf_presented (i : Instr) (s : State) : (updateOf i s).presented = s.presented := by
  cases i with
  | setbounds lo hi => rw [updateOf]; split <;> rfl
  | wrduty d => rw [updateOf]; split <;> rfl
  | _ => rfl

theorem updateOf_responses (i : Instr) (s : State) : (updateOf i s).responses = s.responses := by
  cases i with
  | setbounds lo hi => rw [updateOf]; split <;> rfl
  | wrduty d => rw [updateOf]; split <;> rfl
  | _ => rfl

@[simp] theorem send_updateOf_responses (i : Instr) (s : State) (rs : List Response) :
    ((updateOf i s).send rs).responses = rs ++ s.responses := by
  rw [State.send, updateOf_responses]

/-- The record after a response is the record before it. -/
theorem fld_send (s : State) (rs : List Response) (f : Fld) : (s.send rs).fld f = s.fld f := by cases f <;> rfl

/-! ### Which operations send a response, and which an error -/

theorem responsesOf_of_consumer {i : Instr} (h : i.agent = .consumer) (s : State) : ∃ r, responsesOf i s = [r] := by
  cases i with
  | edge a b => cases h
  | btn sw => cases h
  | reset => cases h
  | ang2pw angle angleMax => rw [responsesOf]; split <;> exact ⟨_, rfl⟩
  | setbounds lo hi => rw [responsesOf]; split <;> exact ⟨_, rfl⟩
  | wrduty d => rw [responsesOf]; split <;> exact ⟨_, rfl⟩
  | pw2ang us angleMax => rw [responsesOf]; split <;> exact ⟨_, rfl⟩
  | duty2pw d => rw [responsesOf]; split <;> exact ⟨_, rfl⟩
  | _ => exact ⟨_, rfl⟩

theorem responsesOf_of_ne_consumer {i : Instr} (h : i.agent ≠ .consumer) (s : State) : responsesOf i s = [] := by
  cases i with
  | edge a b => rfl
  | btn sw => rfl
  | reset => rfl
  | _ => exact absurd rfl h

/-- An error response has data 0, and the operation that sends it writes nothing (R191). -/
theorem updateOf_of_error {i : Instr} {s : State} {r : Response} (hr : responsesOf i s = [r]) (he : r.st ≠ .ok) :
    r.data = 0 ∧ updateOf i s = s := by
  have no_bounds {v : Int} (h : [boundsResponse s v] = [r]) : r.data = 0 := by
    obtain rfl := List.singleton_inj.mp h
    unfold boundsResponse at he ⊢
    split_ifs at he ⊢
    · exact absurd rfl he
    · rfl
  cases i with
  | edge a b => cases hr
  | btn sw => cases hr
  | reset => cases hr
  | pct2pw p => exact ⟨no_bounds hr, rfl⟩
  | pw2pct us => exact ⟨no_bounds hr, rfl⟩
  | ang2pw angle angleMax =>
    rw [responsesOf] at hr
    split_ifs at hr
    · cases hr; exact ⟨rfl, rfl⟩
    · exact ⟨no_bounds hr, rfl⟩
  | pw2ang us angleMax =>
    rw [responsesOf] at hr
    split_ifs at hr
    · cases hr; exact ⟨rfl, rfl⟩
    · exact ⟨no_bounds hr, rfl⟩
  | setbounds lo hi =>
    rw [responsesOf] at hr
    split_ifs at hr with h
    · cases hr; exact absurd rfl he
    · cases hr; exact ⟨rfl, if_neg h⟩
  | wrduty d =>
    rw [responsesOf] at hr
    split_ifs at hr with h
    · cases hr; exact absurd rfl he
    · cases hr; exact ⟨rfl, if_neg h⟩
  | duty2pw d =>
    rw [responsesOf] at hr
    split_ifs at hr
    · cases hr; exact absurd rfl he
    · cases hr; exact ⟨rfl, rfl⟩
  | _ => cases hr; exact absurd rfl he

/-- Settles O26: the branch-free form, with the level pair written out. -/
theorem edgeBranchFreeForm : Obligations.EdgeBranchFreeForm := exec_edge

/-- Settles O16: neither the update nor the responses of an operation look at earlier responses. -/
theorem earlierResponsesHaveNoEffect : Obligations.EarlierResponsesHaveNoEffect := by
  refine fun i s => ⟨(updateOf i s).send (responsesOf i s), responsesOf i s, send_updateOf_responses i s _,
    fun rs => ?_⟩
  have update : updateOf i { s with responses := rs } = { updateOf i s with responses := rs } := by
    cases i with
    | setbounds lo hi => rw [updateOf, updateOf]; split <;> rfl
    | wrduty d => rw [updateOf, updateOf]; split <;> rfl
    | _ => rfl
  have sent : responsesOf i { s with responses := rs } = responsesOf i s := by cases i <;> rfl
  rw [exec_eq, update, sent]
  rfl

/-- An operation alone is answered with an error exactly when its response is no `OK`. -/
theorem errorFree_singleton_eq_false_iff (i : Instr) (s : State) :
    errorFree [i] s = false ↔ ∃ r, responsesOf i s = [r] ∧ r.st ≠ .ok := by
  by_cases h : i.agent = .consumer
  · obtain ⟨r, hr⟩ := responsesOf_of_consumer h s
    simp [errorFree, exec_eq, State.send, hr, h, lastFailed]
  · simp [errorFree, exec_eq, h, responsesOf_of_ne_consumer h s]

theorem boundsResponse_error_iff (s : State) (v : Int) : (boundsResponse s v).st ≠ .ok ↔ s.boundsValid = false := by
  cases h : s.boundsValid <;> simp [boundsResponse, h]

/-- Settles O17: row by row, the condition under which the one response is an error. -/
theorem errorsHaveExactlyTheirCauses : Obligations.ErrorsHaveExactlyTheirCauses := by
  intro i s
  rw [errorFree_singleton_eq_false_iff]
  have bounds (v : Int) := boundsResponse_error_iff s v
  cases i with
  | pct2pw p => simp [responsesOf, bounds]
  | pw2pct us => simp [responsesOf, bounds]
  | ang2pw angle angleMax =>
    by_cases h : angleMax = 0#16
    · simp [responsesOf, h]
    · simp [responsesOf, h, bounds]
  | pw2ang us angleMax =>
    by_cases h : angleMax = 0#16
    · simp [responsesOf, h]
    · simp [responsesOf, h, bounds]
  | setbounds lo hi =>
    by_cases h : lo < hi
    · simp [responsesOf, h]
    · simp [responsesOf, h, BitVec.not_lt.mp h]
  | wrduty d =>
    by_cases h : d.toNat ≤ 8191
    · simp [responsesOf, Config.dutyMax_eq, h]
    · simp [responsesOf, Config.dutyMax_eq, h, Nat.not_le.mp h]
  | duty2pw d =>
    by_cases h : d.toNat ≤ 8191
    · simp [responsesOf, Config.dutyMax_eq, h]
    · simp [responsesOf, Config.dutyMax_eq, h, Nat.not_le.mp h]
  | _ => simp [responsesOf]

end Sys2Proof.Machine

/-!
The access matrix (R34) and the two components (R21). That operations of different components commute needs no more than
the matrix: neither writes a field that the other reads or writes.
-/

namespace Sys2Proof.Machine

/-! ### The fields behind their numbers -/

theorem bool_eq_of_toNat_eq {a b : Bool} (h : a.toNat = b.toNat) : a = b := by revert a b; decide

theorem prev_eq_of_fld {s t : State} (h : s.fld .prev = t.fld .prev) : s.prev = t.prev := BitVec.eq_of_toNat_eq h
theorem acc_eq_of_fld {s t : State} (h : s.fld .acc = t.fld .acc) : s.acc = t.acc := BitVec.eq_of_toNat_eq h
theorem pressed_eq_of_fld {s t : State} (h : s.fld .pressed = t.fld .pressed) : s.pressed = t.pressed :=
  bool_eq_of_toNat_eq h
theorem pending_eq_of_fld {s t : State} (h : s.fld .pending = t.fld .pending) : s.pending = t.pending :=
  bool_eq_of_toNat_eq h
theorem minUs_eq_of_fld {s t : State} (h : s.fld .minUs = t.fld .minUs) : s.minUs = t.minUs := BitVec.eq_of_toNat_eq h
theorem maxUs_eq_of_fld {s t : State} (h : s.fld .maxUs = t.fld .maxUs) : s.maxUs = t.maxUs := BitVec.eq_of_toNat_eq h
theorem boundsValid_eq_of_fld {s t : State} (h : s.fld .boundsValid = t.fld .boundsValid) :
    s.boundsValid = t.boundsValid :=
  bool_eq_of_toNat_eq h

/-! ### Writes -/

/-- The row of `BTN` writes `pending` under the parameter only. -/
theorem mem_writesOf_btn {c : Config} {sw : Level} {f : Fld} :
    f ∈ writesOf c (.btn sw) ↔ f = .pressed ∨ (f = .pending ∧ c.pendingOnButton = true) := by
  cases h : c.pendingOnButton <;> simp [writesOf, h]

/-- An update leaves the fields outside its row of R34. -/
theorem fld_updateOf {i : Instr} {s : State} {f : Fld} (h : f ∉ writesOf s.cfg i) : (updateOf i s).fld f = s.fld f := by
  cases i with
  | edge a b => cases f <;> simp_all [writesOf, updateOf, State.fld]
  | btn sw =>
    rw [mem_writesOf_btn] at h
    cases f <;> simp_all [updateOf, State.fld]
  | reset => cases f <;> simp [writesOf] at h
  | take => cases f <;> simp_all [writesOf, updateOf, State.fld]
  | ack => cases f <;> simp_all [writesOf, updateOf, State.fld]
  | setbounds lo hi =>
    rw [updateOf]
    split
    · cases f <;> simp_all [writesOf, State.fld]
    · rfl
  | wrduty d =>
    rw [updateOf]
    split
    · cases f <;> simp_all [writesOf, State.fld]
    · rfl
  | _ => rfl

/-- Settles O18: the update keeps what the row does not write, and responses are no part of the record. -/
theorem accessMatrixWrites : Obligations.AccessMatrixWrites := by
  intro i s t h
  obtain rfl := exec_eq_next_iff.mp h
  exact ⟨updateOf_cfg i s, updateOf_presented i s, fun f hf => (fld_send _ _ f).trans (fld_updateOf hf)⟩

/-! ### Reads -/

/-- The responses of the commands that read the bounds look at the three bounds fields alone. -/
theorem boundsResponse_congr {s1 s2 : State} {v1 v2 : Int}
    (h : ∀ f ∈ [Fld.minUs, .maxUs, .boundsValid], s1.fld f = s2.fld f)
    (hv : s1.minUs = s2.minUs → s1.maxUs = s2.maxUs → v1 = v2) : boundsResponse s1 v1 = boundsResponse s2 v2 := by
  have hmin := minUs_eq_of_fld (h .minUs (by decide))
  have hmax := maxUs_eq_of_fld (h .maxUs (by decide))
  have hvalid := boundsValid_eq_of_fld (h .boundsValid (by decide))
  rw [boundsResponse, boundsResponse, hvalid, hv hmin hmax]

theorem fractionToPulseWidth_congr {s1 s2 : State} (c whole : Int) (hmin : s1.minUs = s2.minUs)
    (hmax : s1.maxUs = s2.maxUs) : fractionToPulseWidth s1 c whole = fractionToPulseWidth s2 c whole := by
  rw [fractionToPulseWidth, fractionToPulseWidth, hmin, hmax]

theorem pulseWidthToFraction_congr {s1 s2 : State} (us whole : Int) (hmin : s1.minUs = s2.minUs)
    (hmax : s1.maxUs = s2.maxUs) : pulseWidthToFraction s1 us whole = pulseWidthToFraction s2 us whole := by
  rw [pulseWidthToFraction, pulseWidthToFraction, hmin, hmax]

/-- States that agree on the fields an operation reads get the same responses from it. -/
theorem responsesOf_congr {i : Instr} {s1 s2 : State} (hc : s1.cfg = s2.cfg)
    (h : ∀ f ∈ readsOf i, s1.fld f = s2.fld f) : responsesOf i s1 = responsesOf i s2 := by
  cases i with
  | haspending => rw [responsesOf, responsesOf, pending_eq_of_fld (h .pending (by decide))]
  | take => rw [responsesOf, responsesOf, acc_eq_of_fld (h .acc (by decide))]
  | ispressed => rw [responsesOf, responsesOf, pressed_eq_of_fld (h .pressed (by decide))]
  | pw2duty us => rw [responsesOf, responsesOf, hc]
  | duty2pw d => rw [responsesOf, responsesOf, hc]
  | pct2pw p => exact congrArg (· :: []) (boundsResponse_congr h (fractionToPulseWidth_congr _ _))
  | pw2pct us => exact congrArg (· :: []) (boundsResponse_congr h (pulseWidthToFraction_congr _ _))
  | ang2pw angle angleMax =>
    rw [responsesOf, responsesOf, boundsResponse_congr h (fractionToPulseWidth_congr _ _)]
  | pw2ang us angleMax =>
    rw [responsesOf, responsesOf, boundsResponse_congr h (pulseWidthToFraction_congr _ _)]
  | _ => rfl

/-- What an operation writes into a field depends on the field itself and on the fields that it reads. -/
theorem fld_updateOf_congr {i : Instr} {s1 s2 : State} {f : Fld} (hc : s1.cfg = s2.cfg)
    (h : ∀ f ∈ readsOf i, s1.fld f = s2.fld f) (hf : s1.fld f = s2.fld f) :
    (updateOf i s1).fld f = (updateOf i s2).fld f := by
  by_cases hw : f ∈ writesOf s1.cfg i
  case neg => rw [fld_updateOf hw, fld_updateOf (hc ▸ hw), hf]
  cases i with
  | edge a b =>
    have hprev := prev_eq_of_fld (h .prev (by simp [readsOf]))
    have hacc := acc_eq_of_fld (h .acc (by simp [readsOf]))
    simp only [writesOf, List.mem_cons, List.not_mem_nil, or_false] at hw
    obtain rfl | rfl | rfl := hw
    · rfl
    · simp [updateOf, State.fld, hprev, hacc]
    · simp [updateOf, State.fld, hprev, pending_eq_of_fld hf, hc]
  | btn sw =>
    obtain rfl | ⟨rfl, -⟩ := mem_writesOf_btn.mp hw
    · rfl
    · simp [updateOf, State.fld, pending_eq_of_fld hf, hc]
  | reset => cases f <;> rfl
  | take => obtain rfl := List.mem_singleton.mp hw; rfl
  | ack => obtain rfl := List.mem_singleton.mp hw; rfl
  | setbounds lo hi =>
    rw [updateOf, updateOf]
    split
    · simp only [writesOf, List.mem_cons, List.not_mem_nil, or_false] at hw
      obtain rfl | rfl | rfl := hw <;> rfl
    · exact hf
  | wrduty d =>
    rw [updateOf, updateOf]
    split
    · obtain rfl := List.mem_singleton.mp hw; rfl
    · exact hf
  | _ => exact hf

/-- Settles O19: the responses and the written fields are functions of the row's reads. -/
theorem accessMatrixReads : Obligations.AccessMatrixReads := by
  intro i s1 s2 t1 t2 hc h h1 h2
  obtain rfl := exec_eq_next_iff.mp h1
  obtain rfl := exec_eq_next_iff.mp h2
  refine ⟨⟨responsesOf i s1, send_updateOf_responses i s1 _, ?_⟩, fun f hf => ?_⟩
  · rw [send_updateOf_responses, responsesOf_congr hc h]
  · rw [fld_send, fld_send, fld_updateOf_congr hc h hf]

/-! ### Operations one after the other -/

theorem runOps_nil (s : State) : runOps [] s = .next s := rfl

theorem runOps_cons {i : Instr} {s t : State} (h : exec i s = .next t) (is : List Instr) :
    runOps (i :: is) s = runOps is t := by
  rw [runOps, h]

/-! ### Components -/

/-- The component a field of the record belongs to (R21). -/
def Fld.component : Fld → Component
  | .prev | .acc | .pressed | .pending => .qdec
  | .minUs | .maxUs | .boundsValid | .dutyOut => .auc

/-- An operation of one component reads and writes fields of that component only. -/
theorem component_of_mem_matrix {c : Config} {i : Instr} {f : Fld} (hi : componentOf i ≠ .both)
    (hf : f ∈ readsOf i ∨ f ∈ writesOf c i) : f.component = componentOf i := by
  cases i with
  | reset => exact absurd rfl hi
  | btn sw =>
    obtain h | h := hf
    · cases h
    · obtain rfl | ⟨rfl, -⟩ := mem_writesOf_btn.mp h <;> rfl
  | _ => grind [readsOf, writesOf, Fld.component, componentOf]

/-- Two operations of different components leave a field of the first one's component alike in either order: the second
does not write it, and it writes nothing that the first reads. -/
theorem fld_eq_of_other_component {i j : Instr} {s si sj sij sji : State} {f : Fld} (hi : componentOf i ≠ .both)
    (hj : componentOf j ≠ .both) (hij : componentOf i ≠ componentOf j) (hf : f.component ≠ componentOf j)
    (hsi : exec i s = .next si) (hsj : exec j s = .next sj) (hsij : exec j si = .next sij)
    (hsji : exec i sj = .next sji) : sij.fld f = sji.fld f := by
  have keeps {u v : State} {g : Fld} (h : exec j u = .next v) (hg : g.component ≠ componentOf j) :
      v.fld g = u.fld g := by
    obtain ⟨-, -, frame⟩ := accessMatrixWrites j u v h
    exact frame g fun hw => hg (component_of_mem_matrix hj (.inr hw))
  have agree (g : Fld) (hg : g ∈ readsOf i) : s.fld g = sj.fld g := by
    have hgi : g.component = componentOf i := component_of_mem_matrix (c := s.cfg) hi (.inl hg)
    exact (keeps hsj (hgi ▸ hij)).symm
  obtain ⟨hcfg, -, -⟩ := accessMatrixWrites j s sj hsj
  obtain ⟨-, alike⟩ := accessMatrixReads i s sj si sji hcfg.symm agree hsi hsji
  calc sij.fld f = si.fld f := keeps hsij hf
    _ = sji.fld f := alike f (keeps hsj hf).symm

/-- Settles O20: every field belongs to one of the two components, and the operation of the other one leaves it. -/
theorem componentsCommute : Obligations.ComponentsCommute := by
  intro q a s hq ha
  obtain ⟨sq, hsq⟩ := exists_exec q s
  obtain ⟨sa, hsa⟩ := exists_exec a s
  obtain ⟨sqa, hsqa⟩ := exists_exec a sq
  obtain ⟨saq, hsaq⟩ := exists_exec q sa
  refine ⟨sqa, saq, ?_, ?_, fun f => ?_⟩
  · rw [runOps_cons hsq, runOps_cons hsqa, runOps_nil]
  · rw [runOps_cons hsa, runOps_cons hsaq, runOps_nil]
  by_cases hf : f.component = .auc
  · exact (fld_eq_of_other_component (by simp [ha]) (by simp [hq]) (by simp [ha, hq]) (by simp [hf, hq])
      hsa hsq hsaq hsqa).symm
  · exact fld_eq_of_other_component (by simp [hq]) (by simp [ha]) (by simp [ha, hq]) (by simp [hf, ha])
      hsq hsa hsqa hsaq

end Sys2Proof.Machine

/-!
Steps from any state (R70, R190, R191): what a word of each port can decode to, the one response of a command word, and
the invariant of the bounds (R30).
-/

namespace Sys2Proof.Machine

/-! ### What a word of a port decodes to -/

/-- A word of no event is no command word: every command word is an operation or reserved (R79, R80). -/
theorem agent_of_decode_noEvent {c : Config} {w : PortWord} (h : decode c w = .noEvent) : w.agent ≠ .consumer := by
  cases w with
  | portC w =>
    rw [decode] at h
    obtain ⟨-, why, hd⟩ | ⟨-, i, hd⟩ := decodeCommand_cases c w <;> cases hd.symm.trans h
  | _ => nofun

/-- A reserved word is a command word: lane and host words have no reserved values (R80). -/
theorem agent_of_decode_reserved {c : Config} {w : PortWord} {why : Reserved} (h : decode c w = .reserved why) :
    w.agent = .consumer := by
  cases w with
  | portC w => rfl
  | laneQ w => rw [decode, decodeLaneQ] at h; split at h <;> cases h
  | laneS w => rw [decode, decodeLaneS] at h; split at h <;> cases h
  | portH w => rw [decode, decodeHost] at h; split at h <;> cases h

/-! ### One step -/

/-- Settles O9: with a word, each of the three ways of decoding it; without one, the same state. -/
theorem everyStepEndsInANextState : Obligations.EveryStepEndsInANextState := by
  intro s
  cases hp : s.presented with
  | nil => exact ⟨s, step_idle hp⟩
  | cons w rest =>
    cases hd : decode s.cfg w with
    | op i =>
      obtain ⟨t, ht⟩ := exists_exec i { s with presented := rest }
      exact ⟨t, (step_of_decode_op hp hd).trans ht⟩
    | noEvent => exact ⟨_, step_of_decode_noEvent hp hd⟩
    | reserved why => exact ⟨_, step_of_decode_reserved hp hd⟩

/-- Settles O8: the lemma of the step on a decoded word. -/
theorem stepRunsTheDecodedOperation : Obligations.StepRunsTheDecodedOperation :=
  fun _ _ _ _ hp hd => step_of_decode_op hp hd

/-- Settles O10: the lemma of the idle step. -/
theorem nothingPresentedChangesNothing : Obligations.NothingPresentedChangesNothing := fun _ hp => step_idle hp

/-- Settles O14: an operation answers when it is the consumer's, and its agent is that of the port; of the other words,
the reserved ones are the consumer's and the ones without an event are not. -/
theorem oneResponseForEachCommand : Obligations.OneResponseForEachCommand := by
  intro s t w rest hp h
  cases hd : decode s.cfg w with
  | op i =>
    rw [step_of_decode_op hp hd] at h
    obtain rfl := exec_eq_next_iff.mp h
    have agent : i.agent = w.agent := portsFixTheAgent s.cfg w i hd
    refine ⟨updateOf_presented i _, fun hw => ?_, fun hw => ?_⟩
    · obtain ⟨r, hr⟩ := responsesOf_of_consumer (agent.trans hw) { s with presented := rest }
      exact ⟨r, by rw [send_updateOf_responses, hr]; rfl⟩
    · rw [send_updateOf_responses, responsesOf_of_ne_consumer (agent ▸ hw)]
      rfl
  | noEvent =>
    rw [step_of_decode_noEvent hp hd, Host.Outcome.next.injEq] at h
    subst h
    exact ⟨rfl, fun hw => absurd hw (agent_of_decode_noEvent hd), fun _ => rfl⟩
  | reserved why =>
    rw [step_of_decode_reserved hp hd, Host.Outcome.next.injEq] at h
    subst h
    exact ⟨rfl, fun _ => ⟨_, rfl⟩, fun hw => absurd (agent_of_decode_reserved hd) hw⟩

/-- Settles O15: the response sent is that of an operation which raised an error, or that of a reserved word. -/
theorem errorResponsesWriteNothing : Obligations.ErrorResponsesWriteNothing := by
  intro s t r h hr he
  have silent {u : State} (hu : u.responses = s.responses) : t ≠ u := by
    rintro rfl
    exact List.cons_ne_self _ _ (hr.symm.trans hu)
  obtain ⟨-, rfl⟩ | ⟨w, ws, -, ⟨i, -, hx⟩ | ⟨-, rfl⟩ | ⟨why, -, rfl⟩⟩ := step_cases h
  · exact absurd rfl (silent rfl)
  · obtain rfl := exec_eq_next_iff.mp hx
    rw [send_updateOf_responses] at hr
    have sent : responsesOf i s.consume = [r] := List.append_cancel_right (bs := s.responses) (cs := [r]) hr
    obtain ⟨data, update⟩ := updateOf_of_error sent he
    exact ⟨data, by rw [update, sent]; rfl⟩
  · exact absurd rfl (silent rfl)
  · obtain ⟨rfl, -⟩ := List.cons.inj hr
    exact ⟨rfl, rfl⟩

/-! ### The invariant of the bounds -/

theorem boundsInv_clearRecord (s : State) : BoundsInv s.clearRecord := ⟨nofun, fun _ => ⟨rfl, rfl⟩⟩

/-- Of the operations only `RESET` and an accepted `SETBOUNDS` write the bounds, and each establishes the invariant. -/
theorem boundsInv_updateOf {i : Instr} {s : State} (h : BoundsInv s) : BoundsInv (updateOf i s) := by
  cases i with
  | reset => exact boundsInv_clearRecord s
  | setbounds lo hi =>
    rw [updateOf]
    split
    · next order => exact ⟨fun _ => order, nofun⟩
    · exact h
  | wrduty d => rw [updateOf]; split <;> exact h
  | _ => exact h

/-- Settles O12: at reset there are no bounds and both are 0. -/
theorem boundsInvariantAtReset : Obligations.BoundsInvariantAtReset := boundsInv_clearRecord State.reset

/-- Settles O11: the record of `State.reset` is the cleared one. -/
theorem resetStateHasTheResetValues : Obligations.ResetStateHasTheResetValues :=
  ⟨rfl, rfl, rfl, rfl, rfl, rfl, rfl, rfl⟩

/-- Settles O13: the invariant speaks of the bounds alone, which a step changes by the update of its operation. -/
theorem stepKeepsTheBoundsInvariant : Obligations.StepKeepsTheBoundsInvariant := by
  refine ⟨fun s t h => ?_, fun s t hs h => ?_⟩
  · rw [exec_reset, Host.Outcome.next.injEq] at h
    exact h ▸ boundsInv_clearRecord s
  · obtain ⟨-, rfl⟩ | ⟨w, ws, -, ⟨i, -, hx⟩ | ⟨-, rfl⟩ | ⟨why, -, rfl⟩⟩ := step_cases h
    · exact hs
    · obtain rfl := exec_eq_next_iff.mp hx
      exact boundsInv_updateOf (s := s.consume) hs
    · exact hs
    · exact hs

end Sys2Proof.Machine

/-!
Runs of events and commands at the decoder (R24, R58 to R60, R105 to R107, R226 to R229).
-/

namespace Sys2Proof.Machine

/-! ### The transition table -/

/-- Settles O24: the sixteen pairs of level pairs. -/
theorem transitionTableClosedForm : Obligations.TransitionTableClosedForm := by
  unfold Obligations.TransitionTableClosedForm
  decide

/-- An accumulator of 0 takes a delta as it is: no delta wraps. -/
theorem sext_accumulate_zero_delta : ∀ p n : LevelPair,
    sext (accumulate 0 (delta (transitionKey p n))) = delta (transitionKey p n) := by decide

/-! ### Several events -/

/-- The four events of a cycle from the level pair 00, which return there, wrap the sum of their deltas once. -/
theorem runOps_cycle {s : State} (h : s.prev = 0) (a1 b1 a2 b2 a3 b3 : Level) (first : levelPair a1 b1 ≠ 0) :
    runOps [.edge a1 b1, .edge a2 b2, .edge a3 b3, .edge 0 0] s = .next { s with
      acc := s.acc + BitVec.ofInt 32 (delta (transitionKey 0 (levelPair a1 b1))) +
        BitVec.ofInt 32 (delta (transitionKey (levelPair a1 b1) (levelPair a2 b2))) +
        BitVec.ofInt 32 (delta (transitionKey (levelPair a2 b2) (levelPair a3 b3))) +
        BitVec.ofInt 32 (delta (transitionKey (levelPair a3 b3) 0))
      pending := true } := by
  rw [runOps_cons (exec_edge a1 b1 s), runOps_cons (exec_edge a2 b2 _), runOps_cons (exec_edge a3 b3 _),
    runOps_cons (exec_edge 0 0 _), runOps_nil]
  have back : levelPair 0 0 = s.prev := h.symm
  simp only [State.afterEdge, accumulate_eq_add, back, h, first, ne_eq, not_false_eq_true, decide_true, Bool.true_or,
    Bool.or_true]

/-- Settles O28: the deltas of the plus cycle are four times 1, those of the minus cycle four times -1. -/
theorem plusAndMinusCycles : Obligations.PlusAndMinusCycles := by
  intro s h
  have plus (x : BitVec 32) : x + 1 + 1 + 1 + 1 = x + 4 := by bv_omega
  have minus (x : BitVec 32) : x + -1 + -1 + -1 + -1 = x - 4 := by bv_omega
  constructor
  · rw [runOps_cycle h 1 0 1 1 0 1 (by decide)]
    exact congrArg (fun x => Host.Outcome.next { s with acc := x, pending := true }) (plus s.acc)
  · rw [runOps_cycle h 0 1 1 1 1 0 (by decide)]
    exact congrArg (fun x => Host.Outcome.next { s with acc := x, pending := true }) (minus s.acc)

/-- Noting new data before an `EDGE` or after it leaves one flag. -/
theorem State.afterEdge_notePending (s : State) (new : LevelPair) (on : Bool) :
    (s.notePending on).afterEdge new = (s.afterEdge new).notePending on := by
  simp [State.afterEdge, State.notePending, Bool.or_assoc, Bool.or_comm]

/-- Settles O29: the two events have only `pending` in common, which each of them can but set. -/
theorem edgeAndBtnCommute : Obligations.EdgeAndBtnCommute := by
  intro a b sw s
  refine ⟨((s.samplePressed sw).afterEdge (levelPair a b)).notePending s.cfg.pendingOnButton, ?_, ?_⟩
  · rw [runOps_cons (exec_edge a b s), runOps_cons (exec_btn sw _), runOps_nil]
    rfl
  · rw [runOps_cons (exec_btn sw s), runOps_cons (exec_edge a b _), runOps_nil, State.afterEdge_notePending]

/-- Settles O30: the first event is classified against 00, with the accumulator at 0. -/
theorem firstEdgeAfterReset : Obligations.FirstEdgeAfterReset := by
  intro s
  have classified (a b : Level) {new : LevelPair} {count : BitVec 32} (hnew : levelPair a b = new) (hne : new ≠ 0)
      (hcount : accumulate 0 (delta (transitionKey 0 new)) = count) : runOps [.reset, .edge a b] s =
        .next { s.clearRecord with acc := count, prev := new, pending := true } := by
    subst hnew hcount
    rw [runOps_cons (exec_reset s), runOps_cons (exec_edge_of_ne (s := s.clearRecord) hne), runOps_nil]
    rfl
  refine ⟨classified 1 1 rfl (by decide) (by decide), classified 1 0 rfl (by decide) (by decide),
    classified 0 1 rfl (by decide) (by decide), ?_⟩
  rw [runOps_cons (exec_reset s), runOps_cons (exec_edge_of_eq (s := s.clearRecord) rfl), runOps_nil,
    State.notePending, State.clearRecord_pending, Bool.false_or]
  rfl

/-- Settles O35: one event, left alone, acknowledged or taken, and no event. -/
theorem flagAndAccumulatorAreIndependent : Obligations.FlagAndAccumulatorAreIndependent := by
  intro flag counted
  cases flag with
  | false =>
    cases counted with
    | false => exact ⟨[.ack], _, rfl, rfl, rfl⟩
    | true => exact ⟨[.edge 1 0, .ack], _, rfl, rfl, rfl⟩
  | true =>
    cases counted with
    | false => exact ⟨[.edge 1 0, .take], _, rfl, rfl, rfl⟩
    | true => exact ⟨[.edge 1 0], _, rfl, rfl, rfl⟩

/-! ### A command and an event -/

theorem accumulate_zero_left (d : Int) : accumulate 0 d = BitVec.ofInt 32 d := by
  rw [accumulate_eq_add]
  exact BitVec.zero_add _

/-- Settles O36: each order runs its second operation on the state that the first one left. -/
theorem commandAndEventInBothOrders : Obligations.CommandAndEventInBothOrders := by
  refine fun a b sw s => ⟨fun h => ?_, ?_⟩
  · have edge_last {i : Instr} {t : State} (first : exec i s = .next t) (hp : t.prev = s.prev) :
        runOps [i, .edge a b] s = .next (t.classify (levelPair a b)) := by
      rw [runOps_cons first, runOps_cons (exec_edge_of_ne (hp ▸ h)), runOps_nil]
    have edge_first {i : Instr} {t : State} (second : exec i (s.classify (levelPair a b)) = .next t) :
        runOps [.edge a b, i] s = .next t := by
      rw [runOps_cons (exec_edge_of_ne h), runOps_cons second, runOps_nil]
    refine ⟨?_, edge_first (exec_take _), edge_last (exec_ack s) rfl, edge_first (exec_ack _),
      edge_last (exec_haspending s) rfl, edge_first (exec_haspending _)⟩
    rw [edge_last (exec_take s) rfl, State.classify, State.respond_acc, State.zeroAcc_acc, accumulate_zero_left]
    rfl
  · have read_first := runOps_cons (exec_ispressed s) [.btn sw]
    have read_last := runOps_cons (exec_btn sw s) [.ispressed]
    rw [runOps_cons (exec_btn sw _), runOps_nil] at read_first
    rw [runOps_cons (exec_ispressed _), runOps_nil] at read_last
    exact ⟨_, _, read_first, rfl, read_last, by simp⟩

/-- The word of an operation that the configuration has runs it when it is presented next. -/
theorem step_present_encode {i : Instr} {s : State} (h : i.wellFormed s.cfg = true) :
    step (s.present (encode i)) = exec i s := by
  rw [step_present, decode_encode h]

/-- A coincident command goes first (R60): its word is taken, then that of the event. -/
theorem step_presentCoincident {command event : Instr} (s : State) (h : command.wellFormed s.cfg = true) :
    step (s.presentCoincident (encode command) (encode event)) = exec command (s.present (encode event)) :=
  step_present_encode (s := s.present (encode event)) h

/-- Settles O37: the event finds what the command left, and its own update comes last. -/
theorem coincidentCommandGoesFirst : Obligations.CoincidentCommandGoesFirst := by
  intro a b s h
  have edge_next {t : State} (hp : t.prev = s.prev) :
      step (t.present (encode (.edge a b))) = .next (t.classify (levelPair a b)) :=
    (step_present_encode rfl).trans (exec_edge_of_ne (hp ▸ h))
  constructor
  · exact ⟨(s.clearPending.respond ⟨.ok, 0⟩).present _, _, (step_presentCoincident s rfl).trans (exec_ack _),
      edge_next rfl, rfl, rfl⟩
  · exact ⟨(s.zeroAcc.respond ⟨.ok, s.acc⟩).present _, _, (step_presentCoincident s rfl).trans (exec_take _),
      edge_next rfl, rfl, rfl, sext_accumulate_zero_delta _ _⟩

/-! ### Draining (R228) -/

/-- Nothing is counted that is not flagged: without new data the accumulator is empty. -/
def NothingUnflagged (s : State) : Prop := s.pending = false → s.acc = 0

/-- An event that counts anything sets the flag. -/
theorem nothingUnflagged_updateOf {i : Instr} {s : State} (hi : i.agent = .producer) (h : NothingUnflagged s) :
    NothingUnflagged (updateOf i s) := by
  intro hp
  cases i with
  | edge a b =>
    rw [updateOf, State.afterEdge_pending, Bool.or_eq_false_iff, Bool.or_eq_false_iff, decide_eq_false_iff_not,
      not_ne_iff] at hp
    obtain ⟨flag, same, -⟩ := hp
    rw [updateOf, State.afterEdge_acc, same, delta_same, accumulate_zero, h flag]
  | btn sw =>
    rw [updateOf, State.notePending_pending, Bool.or_eq_false_iff] at hp
    obtain ⟨flag, -⟩ := hp
    exact h flag
  | _ => cases hi

/-- Events run through, and leave nothing unflagged if nothing was before. -/
theorem runOps_events {is : List Instr} (hi : ∀ i ∈ is, i.agent = .producer) (s : State) :
    ∃ t, runOps is s = .next t ∧ (NothingUnflagged s → NothingUnflagged t) := by
  induction is generalizing s with
  | nil => exact ⟨s, runOps_nil s, id⟩
  | cons i is ih =>
    obtain ⟨hfirst, hrest⟩ := List.forall_mem_cons.mp hi
    obtain ⟨t, run, keeps⟩ := ih hrest ((updateOf i s).send (responsesOf i s))
    exact ⟨t, (runOps_cons (exec_eq i s) is).trans run, fun h => keeps (nothingUnflagged_updateOf hfirst h)⟩

theorem runOps_append {is : List Instr} {s t : State} (h : runOps is s = .next t) (js : List Instr) :
    runOps (is ++ js) s = runOps js t := by
  induction is generalizing s with
  | nil =>
    obtain rfl := Host.Outcome.next.inj h
    rfl
  | cons i is ih =>
    obtain ⟨u, hu⟩ := exists_exec i s
    rw [runOps_cons hu] at h
    rw [List.cons_append, runOps_cons hu, ih h]

/-- Settles O38: `TAKE` empties the accumulator and events count nothing unflagged; an event that `ACK` follows is
counted, and its flag is cleared. -/
theorem drainLeavesNothingUnflagged : Obligations.DrainLeavesNothingUnflagged := by
  constructor
  · intro between after s h
    obtain ⟨hbetween, hafter⟩ := List.forall_mem_append.mp h
    obtain ⟨u, run_between, -⟩ := runOps_events hbetween (s.clearPending.respond ⟨.ok, 0⟩)
    obtain ⟨t, run_after, keeps⟩ := runOps_events hafter (u.zeroAcc.respond ⟨.ok, u.acc⟩)
    refine ⟨t, ?_, keeps fun _ => rfl⟩
    rw [List.cons_append, runOps_cons (exec_ack s), runOps_append run_between, runOps_cons (exec_take u), run_after]
  · intro a b s h
    have take_edge := exec_edge_of_ne (s := s.zeroAcc.respond ⟨.ok, s.acc⟩) h
    have run := runOps_cons (exec_take s) [.edge a b, .ack]
    rw [runOps_cons take_edge, runOps_cons (exec_ack _), runOps_nil] at run
    refine ⟨_, run, rfl, fun hacc => ?_⟩
    have counted := sext_accumulate_zero_delta s.prev (levelPair a b)
    rw [show accumulate 0 (delta (transitionKey s.prev (levelPair a b))) = 0 from hacc] at counted
    exact delta_ne_zero _ _ h counted.symm

end Sys2Proof.Machine

/-!
Counting over runs (R24, R58, R229): what one operation does with the accumulator, and the sums over a run.
-/

namespace Sys2Proof.Machine

/-! ### The accumulator -/

/-- A sum in the range of the accumulator does not wrap. -/
theorem sext_accumulate_of_mem {a : BitVec Config.accW} {d : Int} (h : -(2 ^ 31) ≤ sext a + d ∧ sext a + d < 2 ^ 31) :
    sext (accumulate a d) = sext a + d := by
  have size : ((2 ^ Config.accW : Nat) : Int) = 2 ^ 32 := by norm_num
  obtain ⟨low, high⟩ := h
  rw [sext_accumulate]
  exact Int.bmod_eq_of_le_mul_two (by omega) (by omega)

/-- A sum that wraps stays congruent modulo the range of the accumulator. -/
theorem sext_accumulate_congr (a : BitVec Config.accW) (d : Int) :
    (sext (accumulate a d) - (sext a + d)) % 2 ^ 32 = 0 := by
  rw [sext_accumulate]
  exact Int.emod_eq_zero_of_dvd Int.dvd_bmod_sub_self

/-- All that an operation can do with the accumulator: an `EDGE` adds its delta, `TAKE` delivers it, `RESET` clears it,
and every other operation leaves it. -/
theorem exec_acc_cases {i : Instr} {s t : State} (h : exec i s = .next t) :
    (isEdge i = true ∧ takenBy i t = 0 ∧ t.acc = accumulate s.acc (edgeDelta i s)) ∨
    (i = .take ∧ takenBy i t = sext s.acc ∧ t.acc = 0) ∨
    (i = .reset ∧ t.acc = 0) ∨
    (isEdge i = false ∧ edgeDelta i s = 0 ∧ takenBy i t = 0 ∧ t.acc = s.acc) := by
  obtain ⟨-, -, frame⟩ := accessMatrixWrites i s t h
  have kept (hw : Fld.acc ∉ writesOf s.cfg i) : t.acc = s.acc := acc_eq_of_fld (frame .acc hw)
  cases i with
  | edge a b =>
    obtain rfl := exec_eq_next_iff.mp h
    exact .inl ⟨rfl, rfl, rfl⟩
  | take =>
    obtain rfl := exec_eq_next_iff.mp h
    exact .inr (.inl ⟨rfl, rfl, rfl⟩)
  | reset =>
    obtain rfl := exec_eq_next_iff.mp h
    exact .inr (.inr (.inl ⟨rfl, rfl⟩))
  | btn sw => exact .inr (.inr (.inr ⟨rfl, rfl, rfl, kept (by simp [mem_writesOf_btn])⟩))
  | _ => exact .inr (.inr (.inr ⟨rfl, rfl, rfl, kept (by simp [writesOf])⟩))

/-- How far an operation can move the accumulator: an `EDGE` by a delta of the table, another operation not at all. -/
def reachOf (i : Instr) : Int := if isEdge i then 2 else 0

theorem abs_edgeDelta_le (i : Instr) (s : State) : |edgeDelta i s| ≤ reachOf i := by
  cases i with
  | edge a b => exact abs_le.mpr (delta_mem _)
  | _ => exact le_refl 0

theorem fitsAcc_iff {i : Instr} {s : State} :
    fitsAcc i s = true ↔ -(2 ^ 31) ≤ sext s.acc + edgeDelta i s ∧ sext s.acc + edgeDelta i s < 2 ^ 31 :=
  decide_eq_true_iff

/-! ### Conservation of ticks (R58) -/

/-- What one operation takes and leaves agrees with what it found and counted. -/
theorem exec_conserves {i : Instr} {s t : State} (hi : i ≠ .reset) (h : exec i s = .next t) :
    ((takenBy i t + sext t.acc) - (sext s.acc + edgeDelta i s)) % 2 ^ 32 = 0 ∧
    (fitsAcc i s = true → takenBy i t + sext t.acc = sext s.acc + edgeDelta i s) := by
  obtain ⟨-, taken, acc⟩ | ⟨rfl, taken, acc⟩ | ⟨rfl, -⟩ | ⟨-, counted, taken, acc⟩ := exec_acc_cases h
  · have wraps := sext_accumulate_congr s.acc (edgeDelta i s)
    rw [taken, acc]
    refine ⟨by omega, fun fits => ?_⟩
    rw [sext_accumulate_of_mem (fitsAcc_iff.mp fits), Int.zero_add]
  · have exact_balance : takenBy .take t + sext t.acc = sext s.acc + edgeDelta .take s := by
      rw [taken, acc]
      rfl
    exact ⟨by omega, fun _ => exact_balance⟩
  · exact absurd rfl hi
  · rw [counted, taken, acc]
    exact ⟨by omega, fun _ => by omega⟩

theorem tally_cons {i : Instr} {s t : State} (h : exec i s = .next t) (is : List Instr) :
    tally (i :: is) s =
      (tally is t).map fun r => ⟨edgeDelta i s + r.edges, takenBy i t + r.taken, r.final⟩ := by
  rw [tally, h]

theorem neverOverflows_cons {i : Instr} {s t : State} (h : exec i s = .next t) (is : List Instr) :
    neverOverflows (i :: is) s = (fitsAcc i s && neverOverflows is t) := by
  rw [neverOverflows, h]

/-- Settles O39: by induction on the run, each operation conserving the ticks. -/
theorem ticksAreConserved : Obligations.TicksAreConserved := by
  intro ops
  induction ops with
  | nil => exact fun s _ => ⟨_, rfl, by simp, fun _ => by simp⟩
  | cons i is ih =>
    intro s hreset
    obtain ⟨hi, hrest⟩ := List.forall_mem_cons.mp hreset
    obtain ⟨t, ht⟩ := exists_exec i s
    obtain ⟨r, hr, congruent, balance⟩ := ih t hrest
    obtain ⟨congruent_first, balance_first⟩ := exec_conserves hi ht
    simp only [sext] at congruent_first balance_first
    refine ⟨_, by rw [tally_cons ht, hr, Option.map_some], ?_, fun fits => ?_⟩
    · dsimp only
      omega
    · rw [neverOverflows_cons ht, Bool.and_eq_true] at fits
      obtain ⟨fits_first, fits_rest⟩ := fits
      have first := balance_first fits_first
      have rest := balance fits_rest
      dsimp only
      omega

/-! ### No overflow within the bound (R229) -/

theorem fitsAcc_of_room {i : Instr} {s : State} (h : |sext s.acc| + reachOf i < 2 ^ 31) : fitsAcc i s = true := by
  have reach := abs_edgeDelta_le i s
  have sum : |sext s.acc + edgeDelta i s| < 2 ^ 31 := by linarith [abs_add_le (sext s.acc) (edgeDelta i s)]
  obtain ⟨low, high⟩ := abs_lt.mp sum
  exact fitsAcc_iff.mpr ⟨low.le, high⟩

/-- Without an overflow an operation moves the accumulator away from 0 no further than it reaches. -/
theorem abs_acc_le_of_fitsAcc {i : Instr} {s t : State} (h : exec i s = .next t) (fits : fitsAcc i s = true) :
    |sext t.acc| ≤ |sext s.acc| + reachOf i := by
  have reach := abs_edgeDelta_le i s
  have cleared (ht : t.acc = 0) : |sext t.acc| ≤ |sext s.acc| + reachOf i := by
    have empty : sext t.acc = 0 := by rw [ht]; rfl
    rw [empty, abs_zero]
    linarith [abs_nonneg (sext s.acc), abs_nonneg (edgeDelta i s)]
  obtain ⟨-, -, acc⟩ | ⟨-, -, acc⟩ | ⟨-, acc⟩ | ⟨-, -, -, acc⟩ := exec_acc_cases h
  · rw [acc, sext_accumulate_of_mem (fitsAcc_iff.mp fits)]
    linarith [abs_add_le (sext s.acc) (edgeDelta i s)]
  · exact cleared acc
  · exact cleared acc
  · rw [acc]
    linarith [abs_nonneg (edgeDelta i s)]

/-- The events to come cannot overflow an accumulator that has room for the reach of them all. -/
theorem neverOverflows_of_room {ops : List Instr} {s : State}
    (h : |sext s.acc| + 2 * (ops.countP isEdge : Int) < 2 ^ 31) : neverOverflows ops s = true := by
  induction ops generalizing s with
  | nil => rfl
  | cons i is ih =>
    have count : 2 * ((i :: is).countP isEdge : Int) = reachOf i + 2 * (is.countP isEdge : Int) := by
      rw [List.countP_cons, reachOf]
      split <;> push_cast <;> ring
    obtain ⟨t, ht⟩ := exists_exec i s
    have fits : fitsAcc i s = true := fitsAcc_of_room (by omega)
    have moved := abs_acc_le_of_fitsAcc ht fits
    rw [neverOverflows_cons ht, fits, Bool.true_and]
    exact ih (by omega)

/-- Settles O40: from an empty accumulator, 2^30 - 1 events need less room than there is. -/
theorem noOverflowWithinTheBound : Obligations.NoOverflowWithinTheBound := by
  intro ops s hacc hcount
  refine neverOverflows_of_room ?_
  have empty : sext s.acc = 0 := by rw [hacc]; rfl
  rw [empty, abs_zero]
  omega

end Sys2Proof.Machine

/-!
Ranges of the conversions (R143, R147, R150, R173, R176), with the bounds in order: the two formulas over the naturals,
each with its ends and its order, and the commands that answer with them.
-/

namespace Sys2Proof.Machine

/-! ### Responses as numbers -/

theorem toNat_ofNat32 {n : Nat} (h : n < 2 ^ 32) : (BitVec.ofNat 32 n).toNat = n := by
  rw [BitVec.toNat_ofNat, Nat.mod_eq_of_lt h]

/-- The response to a command is the one that it sends. -/
theorem answer_of_exec {i : Instr} {s t : State} {r : Response} (h : exec i s = .next (t.respond r)) :
    answer i s = some r := by
  rw [answer, h]
  rfl

/-! ### A fraction of the bounds -/

/-- An operand clamped to 0 and `whole`. -/
def clampTo (whole : Nat) (v : Int) : Nat := (max 0 (min (whole : Int) v)).toNat

theorem clampTo_le (whole : Nat) (v : Int) : clampTo whole v ≤ whole := by unfold clampTo; omega

theorem clampTo_mono (whole : Nat) {u v : Int} (h : u ≤ v) : clampTo whole u ≤ clampTo whole v := by
  unfold clampTo
  omega

theorem clampTo_of_nonpos (whole : Nat) {v : Int} (h : v ≤ 0) : clampTo whole v = 0 := by unfold clampTo; omega

theorem clampTo_of_ge {whole : Nat} {v : Int} (h : (whole : Int) ≤ v) : clampTo whole v = whole := by
  unfold clampTo
  omega

theorem clampTo_natCast {whole n : Nat} (h : n ≤ whole) : clampTo whole n = n := by unfold clampTo; omega

/-- The pulse width at the fraction `c / whole` of the bounds (R146, R149). -/
def pulseWidthAt (s : State) (c whole : Nat) : Nat := s.minUs.toNat + (s.maxUs.toNat - s.minUs.toNat) * c / whole

@[simp] theorem pulseWidthAt_respond (s : State) (r : Response) (c whole : Nat) :
    pulseWidthAt (s.respond r) c whole = pulseWidthAt s c whole := rfl

section
variable {s : State} {c whole : Nat}

theorem minUs_le_pulseWidthAt : s.minUs.toNat ≤ pulseWidthAt s c whole := Nat.le_add_right _ _

theorem pulseWidthAt_mono {d : Nat} (h : c ≤ d) : pulseWidthAt s c whole ≤ pulseWidthAt s d whole :=
  Nat.add_le_add_left (Nat.div_le_div_right (Nat.mul_le_mul_left _ h)) _

theorem pulseWidthAt_zero : pulseWidthAt s 0 whole = s.minUs.toNat := by simp [pulseWidthAt]

theorem pulseWidthAt_whole (h : s.minUs < s.maxUs) (hw : 0 < whole) : pulseWidthAt s whole whole = s.maxUs.toNat := by
  rw [pulseWidthAt, Nat.mul_div_cancel _ hw]
  exact Nat.add_sub_cancel' (Nat.le_of_lt h)

theorem pulseWidthAt_le (h : s.minUs < s.maxUs) (hw : 0 < whole) (hc : c ≤ whole) :
    pulseWidthAt s c whole ≤ s.maxUs.toNat :=
  (pulseWidthAt_mono hc).trans_eq (pulseWidthAt_whole h hw)

/-- A proper fraction of the bounds stays below the upper one (R150 (c)). -/
theorem pulseWidthAt_lt (h : s.minUs < s.maxUs) (hc : c < whole) : pulseWidthAt s c whole < s.maxUs.toNat := by
  have order : s.minUs.toNat < s.maxUs.toNat := h
  have width : (s.maxUs.toNat - s.minUs.toNat) * c / whole < s.maxUs.toNat - s.minUs.toNat := by
    refine Nat.div_lt_of_lt_mul ?_
    rw [Nat.mul_comm whole]
    exact Nat.mul_lt_mul_of_pos_left hc (by omega)
  rw [pulseWidthAt]
  omega

theorem pulseWidthAt_le_16 (h : s.minUs < s.maxUs) (hw : 0 < whole) (hc : c ≤ whole) :
    pulseWidthAt s c whole ≤ 65535 := by
  have := pulseWidthAt_le h hw hc; have := s.maxUs.isLt
  omega

/-- As the data of a response the pulse width is not truncated. -/
theorem toNat_pulseWidthAt (h : s.minUs < s.maxUs) (hw : 0 < whole) (hc : c ≤ whole) :
    (BitVec.ofNat 32 (pulseWidthAt s c whole)).toNat = pulseWidthAt s c whole := by
  have := pulseWidthAt_le_16 h hw hc
  exact toNat_ofNat32 (by omega)

end

/-- `PCT2PW` with bounds in order (R146). -/
theorem exec_pct2pw_of_valid {s : State} (p : Word16) (hb : s.boundsValid = true) (h : s.minUs < s.maxUs) :
    exec (.pct2pw p) s = .next (s.respond ⟨.ok, BitVec.ofNat 32 (pulseWidthAt s (clampTo 100 p.toInt) 100)⟩) := by
  rw [exec_pct2pw]
  exact withBounds_fraction_of_valid p.toInt hb h (by decide)

/-- `ANG2PW` with bounds in order and a largest angle (R149). -/
theorem exec_ang2pw_of_valid {s : State} {angleMax : Word16} (angle : Word16) (hm : angleMax ≠ 0)
    (hb : s.boundsValid = true) (h : s.minUs < s.maxUs) :
    exec (.ang2pw angle angleMax) s = .next
      (s.respond ⟨.ok, BitVec.ofNat 32 (pulseWidthAt s (clampTo angleMax.toNat angle.toInt) angleMax.toNat)⟩) := by
  rw [exec_ang2pw_of_ne angle s hm]
  exact withBounds_fraction_of_valid angle.toInt hb h (BitVec.toNat_pos_of_ne_zero hm)

/-- Settles O44: the clamped percentage is a fraction of the bounds, and the pulse width grows with it. -/
theorem pct2pwStaysInTheBounds : Obligations.Pct2pwStaysInTheBounds := by
  intro s hb h
  have answers (p : Word16) := answer_of_exec (exec_pct2pw_of_valid p hb h)
  have clamped (p : Word16) : clampTo 100 p.toInt ≤ 100 := clampTo_le 100 _
  have data (p : Word16) := toNat_pulseWidthAt h (by decide) (clamped p)
  refine ⟨fun p => ⟨_, answers p, ?_, ?_, fun low => ?_, fun high => ?_⟩,
    fun p q hpq => ⟨_, _, answers p, answers q, ?_⟩⟩
  · rw [data p]; exact minUs_le_pulseWidthAt
  · rw [data p]; exact pulseWidthAt_le h (by decide) (clamped p)
  · rw [data p, clampTo_of_nonpos 100 low, pulseWidthAt_zero]
  · rw [data p, clampTo_of_ge (by exact_mod_cast high), pulseWidthAt_whole h (by decide)]
  · rw [BitVec.le_def, data p, data q]
    exact pulseWidthAt_mono (clampTo_mono 100 hpq)

/-- Settles O46: the clamped angle is a fraction of the bounds, a proper one when no angle reaches the largest. -/
theorem ang2pwStaysInTheBounds : Obligations.Ang2pwStaysInTheBounds := by
  intro angle angleMax s hb h hm
  have positive : 0 < angleMax.toNat := BitVec.toNat_pos_of_ne_zero hm
  have clamped : clampTo angleMax.toNat angle.toInt ≤ angleMax.toNat := clampTo_le _ _
  refine ⟨_, answer_of_exec (exec_ang2pw_of_valid angle hm hb h), ?_⟩
  rw [toNat_pulseWidthAt h positive clamped]
  refine ⟨minUs_le_pulseWidthAt, pulseWidthAt_le h positive clamped, fun low => ?_, fun high => ?_, fun wide => ?_⟩
  · rw [clampTo_of_nonpos _ low, pulseWidthAt_zero]
  · rw [clampTo_of_ge high, pulseWidthAt_whole h positive]
  · have largest : angle.toInt < 2 ^ 15 := BitVec.toInt_lt
    exact pulseWidthAt_lt h (by unfold clampTo; omega)

/-! ### The fraction at a pulse width -/

/-- The fraction of `whole` at a pulse width clamped to the bounds (R172, R175). -/
def fractionAt (s : State) (us whole : Nat) : Nat :=
  (max s.minUs.toNat (min s.maxUs.toNat us) - s.minUs.toNat) * whole / (s.maxUs.toNat - s.minUs.toNat)

@[simp] theorem fractionAt_respond (s : State) (r : Response) (us whole : Nat) :
    fractionAt (s.respond r) us whole = fractionAt s us whole := rfl

section
variable {s : State} {us : Nat} (whole : Nat)

theorem fractionAt_of_le (h : us ≤ s.minUs.toNat) : fractionAt s us whole = 0 := by
  have clamped : max s.minUs.toNat (min s.maxUs.toNat us) - s.minUs.toNat = 0 := by omega
  rw [fractionAt, clamped, Nat.zero_mul, Nat.zero_div]

theorem fractionAt_of_ge (h : s.minUs < s.maxUs) (hus : s.maxUs.toNat ≤ us) : fractionAt s us whole = whole := by
  have order : s.minUs.toNat < s.maxUs.toNat := h
  have clamped : max s.minUs.toNat (min s.maxUs.toNat us) = s.maxUs.toNat := by omega
  rw [fractionAt, clamped, Nat.mul_div_cancel_left _ (by omega)]

theorem fractionAt_le (h : s.minUs < s.maxUs) : fractionAt s us whole ≤ whole := by
  have order : s.minUs.toNat < s.maxUs.toNat := h
  exact Nat.div_le_of_le_mul (Nat.mul_le_mul_right _ (by omega))

end

/-- Within the bounds nothing is clamped. -/
theorem fractionAt_of_mem {s : State} {us : Nat} (whole : Nat) (h1 : s.minUs.toNat ≤ us) (h2 : us ≤ s.maxUs.toNat) :
    fractionAt s us whole = (us - s.minUs.toNat) * whole / (s.maxUs.toNat - s.minUs.toNat) := by
  rw [fractionAt, min_eq_right h2, max_eq_right h1]

/-- As the data of a response the fraction of a 16-bit number is not truncated. -/
theorem toNat_fractionAt {s : State} {whole : Nat} (us : Nat) (h : s.minUs < s.maxUs) (hw : whole ≤ 65535) :
    (BitVec.ofNat 32 (fractionAt s us whole)).toNat = fractionAt s us whole := by
  have := fractionAt_le (us := us) whole h
  exact toNat_ofNat32 (by omega)

/-- `PW2PCT` with bounds in order (R172). -/
theorem exec_pw2pct_of_valid {s : State} (us : Word16) (hb : s.boundsValid = true) (h : s.minUs < s.maxUs) :
    exec (.pw2pct us) s = .next (s.respond ⟨.ok, BitVec.ofNat 32 (fractionAt s us.toNat 100)⟩) := by
  rw [exec_pw2pct]
  exact withBounds_pulseWidth_of_valid us.toNat 100 hb h

/-- `PW2ANG` with bounds in order and a largest angle (R175). -/
theorem exec_pw2ang_of_valid {s : State} {angleMax : Word16} (us : Word16) (hm : angleMax ≠ 0)
    (hb : s.boundsValid = true) (h : s.minUs < s.maxUs) :
    exec (.pw2ang us angleMax) s = .next (s.respond ⟨.ok, BitVec.ofNat 32 (fractionAt s us.toNat angleMax.toNat)⟩) := by
  rw [exec_pw2ang_of_ne us s hm]
  exact withBounds_pulseWidth_of_valid us.toNat angleMax.toNat hb h

/-- Settles O51: both commands answer a fraction of their whole, none of it at the lower bound and all of it at the
upper. -/
theorem inverseResultsStayInRange : Obligations.InverseResultsStayInRange := by
  intro us angleMax s hb h hm
  have dataPct := toNat_fractionAt (whole := 100) us.toNat h (by decide)
  have dataAng := toNat_fractionAt (whole := angleMax.toNat) us.toNat h (Nat.le_of_lt_succ angleMax.isLt)
  refine ⟨_, _, answer_of_exec (exec_pw2pct_of_valid us hb h), answer_of_exec (exec_pw2ang_of_valid us hm hb h),
    ?_, ?_, fun low => ?_, fun high => ?_⟩
  · rw [dataPct]; exact fractionAt_le 100 h
  · rw [dataAng]; exact fractionAt_le _ h
  · rw [fractionAt_of_le 100 low, fractionAt_of_le _ low]
    exact ⟨rfl, rfl⟩
  · rw [dataPct, dataAng, fractionAt_of_ge 100 h high, fractionAt_of_ge _ h high]
    exact ⟨rfl, rfl⟩

/-! ### Duties -/

/-- The duty of a pulse width (R142). -/
def dutyOf (s : State) (us : Nat) : Nat := us * 8191 / s.cfg.periodUs

theorem dutyOf_period (s : State) : dutyOf s s.cfg.periodUs = 8191 := Nat.mul_div_cancel_left _ s.cfg.periodUs_pos

theorem dutyOf_mono (s : State) {us1 us2 : Nat} (h : us1 ≤ us2) : dutyOf s us1 ≤ dutyOf s us2 :=
  Nat.div_le_div_right (Nat.mul_le_mul_right _ h)

/-- A pulse width within the period has a duty that fits (R143 (b)). -/
theorem dutyOf_le_of_le_period {s : State} {us : Nat} (h : us ≤ s.cfg.periodUs) : dutyOf s us ≤ 8191 :=
  (dutyOf_mono s h).trans_eq (dutyOf_period s)

/-- As the data of a response the duty of a 16-bit pulse width is not truncated. -/
theorem toNat_dutyOf {us : Nat} (s : State) (h : us ≤ 65535) : (BitVec.ofNat 32 (dutyOf s us)).toNat = dutyOf s us := by
  have : dutyOf s us ≤ us * 8191 := Nat.div_le_self _ _
  exact toNat_ofNat32 (by omega)

theorem exec_pw2duty_eq (us : Word16) (s : State) :
    exec (.pw2duty us) s = .next (s.respond ⟨.ok, BitVec.ofNat 32 (dutyOf s us.toNat)⟩) := exec_pw2duty us s

/-- Settles O42: the duty at 0 and at the period, and its order. -/
theorem pw2dutyCornerCases : Obligations.Pw2dutyCornerCases := by
  intro s
  have answers (us : Word16) := answer_of_exec (exec_pw2duty_eq us s)
  have data (us : Word16) := toNat_dutyOf s (Nat.le_of_lt_succ us.isLt)
  refine ⟨?_, fun us period => ?_, fun us1 us2 h => ⟨_, _, answers us1, answers us2, ?_⟩⟩
  · rw [answers]
    simp [dutyOf]
  · rw [answers, period, dutyOf_period]
    rfl
  · rw [BitVec.le_def, data us1, data us2]
    exact dutyOf_mono s h

end Sys2Proof.Machine

/-!
Traces of commands (R82 to R84, R160, R161, R173, R179, R224): how a line of a trace runs, once for a line that is
answered with OK and once for one that is answered with an error, and the sequences that `$` makes of the commands.
-/

namespace Sys2Proof.Machine

/-! ### One line of a trace -/

theorem runTrace_cons {stop : Bool} {l : TraceLine} {i : Instr} {s t : State} (ls : List TraceLine)
    (ha : l.assemble (lastData s.responses) = some i) (hs : step (s.present (encode i)) = .next t) :
    runTrace stop (l :: ls) s =
      if stop && l.isCommand && lastFailed t.responses then .stopped t else runTrace stop ls t := by
  simp only [runTrace, ha, hs]

theorem runTrace_cons_of_none {stop : Bool} {l : TraceLine} {s : State} (ls : List TraceLine)
    (ha : l.assemble (lastData s.responses) = none) : runTrace stop (l :: ls) s = .unassembled s := by
  simp only [runTrace, ha]

/-- A line of the producer or the host never stops a run. -/
theorem runTrace_event {stop : Bool} {l : TraceLine} {i : Instr} {s t : State} (ls : List TraceLine)
    (hl : l.isCommand = false) (ha : l.assemble (lastData s.responses) = some i)
    (hw : i.wellFormed s.cfg = true) (hx : exec i s = .next t) : runTrace stop (l :: ls) s = runTrace stop ls t := by
  rw [runTrace_cons ls ha ((step_present_encode hw).trans hx), hl, Bool.and_false, Bool.false_and, if_neg nofun]

/-- A command that is answered with OK lets the run go on. -/
theorem runTrace_ok {stop : Bool} {c : CommandLine} {i : Instr} {s t : State} {d : Word32} (ls : List TraceLine)
    (ha : c.assemble (lastData s.responses) = some i) (hw : i.wellFormed s.cfg = true)
    (hx : exec i s = .next (t.respond ⟨.ok, d⟩)) :
    runTrace stop (.cmd c :: ls) s = runTrace stop ls (t.respond ⟨.ok, d⟩) := by
  rw [runTrace_cons (l := .cmd c) ls ha ((step_present_encode hw).trans hx)]
  simp [lastFailed]

/-- A command that is answered with an error ends a run that stops at errors. -/
theorem runTrace_error {c : CommandLine} {i : Instr} {s t : State} {e : Err} {d : Word32} (ls : List TraceLine)
    (ha : c.assemble (lastData s.responses) = some i)
    (hs : step (s.present (encode i)) = .next (t.respond ⟨.err e, d⟩)) :
    runTrace true (.cmd c :: ls) s = .stopped (t.respond ⟨.err e, d⟩) := by
  rw [runTrace_cons (l := .cmd c) ls ha hs]
  simp [lastFailed, TraceLine.isCommand]

/-! ### Operands -/

theorem toNat_ofNat16 {n : Nat} (h : n ≤ 65535) : (BitVec.ofNat 16 n).toNat = n := by
  rw [BitVec.toNat_ofNat, Nat.mod_eq_of_lt (by omega)]

theorem toInt_ofNat16 {n : Nat} (h : n ≤ 32767) : (BitVec.ofNat 16 n).toInt = n := by
  rw [BitVec.toInt_eq_toNat_of_lt (by rw [toNat_ofNat16 (by omega)]; omega), toNat_ofNat16 (by omega)]

/-- A signed numeral of 16 bits is read back from its field. -/
theorem toInt_enc16 {v : Int} (h0 : -32768 ≤ v) (h1 : v ≤ 32767) : (enc 16 v).toInt = v := by
  have wrap := sext_enc 16 v
  rw [Int.bmod_eq_of_le_mul_two (by norm_num; omega) (by norm_num; omega)] at wrap
  exact wrap

theorem unsigned16_natCast {n : Nat} (h : n ≤ 65535) (last : Option Word32) :
    (Operand.num n).unsigned16 last = some (BitVec.ofNat 16 n) := by
  rw [unsigned16_num (Int.natCast_nonneg n) (by exact_mod_cast h), enc_natCast]

theorem unsigned16_toNat (b : Word16) (last : Option Word32) : (Operand.num b.toNat).unsigned16 last = some b := by
  rw [unsigned16_natCast (Nat.le_of_lt_succ b.isLt), BitVec.ofNat_toNat, BitVec.setWidth_eq]

/-- `$` as an unsigned 16-bit operand, after the response with the data `n`. -/
theorem unsigned16_last_ofNat {n : Nat} (h : n ≤ 65535) :
    Operand.last.unsigned16 (some (BitVec.ofNat 32 n)) = some (BitVec.ofNat 16 n) := by
  rw [unsigned16_last (by rw [toNat_ofNat32 (by omega)]; exact h), BitVec.setWidth_ofNat_of_le (by decide)]

/-- `$` as a signed 16-bit operand, after the response with the data `n`. -/
theorem signed16_last_ofNat {n : Nat} (h : n ≤ 32767) :
    Operand.last.signed16 (some (BitVec.ofNat 32 n)) = some (BitVec.ofNat 16 n) := by
  rw [signed16_last (by rw [toNat_ofNat32 (by omega)]; exact h), BitVec.setWidth_ofNat_of_le (by decide)]

/-! ### Lines with their operands resolved -/

section
variable {last : Option Word32}

theorem assemble_pw2duty {o : Operand} {us : Word16} (h : o.unsigned16 last = some us) :
    (CommandLine.pw2duty o).assemble last = some (.pw2duty us) := by rw [CommandLine.assemble, h]; rfl

theorem assemble_pct2pw {o : Operand} {p : Word16} (h : o.signed16 last = some p) :
    (CommandLine.pct2pw o).assemble last = some (.pct2pw p) := by rw [CommandLine.assemble, h]; rfl

theorem assemble_ang2pw {o1 o2 : Operand} {angle angleMax : Word16} (h1 : o1.signed16 last = some angle)
    (h2 : o2.unsigned16 last = some angleMax) :
    (CommandLine.ang2pw o1 o2).assemble last = some (.ang2pw angle angleMax) := by
  rw [CommandLine.assemble, h1, h2]; rfl

theorem assemble_setbounds {o1 o2 : Operand} {lo hi : Word16} (h1 : o1.unsigned16 last = some lo)
    (h2 : o2.unsigned16 last = some hi) :
    (CommandLine.setbounds o1 o2).assemble last = some (.setbounds lo hi) := by
  rw [CommandLine.assemble, h1, h2]; rfl

theorem assemble_pw2pct {o : Operand} {us : Word16} (h : o.unsigned16 last = some us) :
    (CommandLine.pw2pct o).assemble last = some (.pw2pct us) := by rw [CommandLine.assemble, h]; rfl

theorem assemble_wrduty_last (d : Word32) : (CommandLine.wrduty .last).assemble (some d) = some (.wrduty d) := by
  rw [CommandLine.assemble, unsigned32_last]; rfl

theorem assemble_duty2pw_last (d : Word32) : (CommandLine.duty2pw .last).assemble (some d) = some (.duty2pw d) := by
  rw [CommandLine.assemble, unsigned32_last]; rfl

end

/-! ### There and back -/

/-- A fraction of the bounds there and back is at most what it was: the first floor can but lose (R173 (c)). -/
theorem fractionAt_pulseWidthAt_le {s : State} {c whole : Nat} (h : s.minUs < s.maxUs) (hw : 0 < whole)
    (hc : c ≤ whole) : fractionAt s (pulseWidthAt s c whole) whole ≤ c := by
  have order : s.minUs.toNat < s.maxUs.toNat := h
  rw [fractionAt_of_mem whole minUs_le_pulseWidthAt (pulseWidthAt_le h hw hc), pulseWidthAt, Nat.add_sub_cancel_left]
  exact Nat.div_le_of_le_mul (Nat.div_mul_le_self _ _)

/-- Where the width of the bounds is a multiple of `whole`, the first floor loses nothing (R173 (c)). -/
theorem fractionAt_pulseWidthAt_of_dvd {s : State} {c whole : Nat} (h : s.minUs < s.maxUs) (hw : 0 < whole)
    (hc : c ≤ whole) (hd : whole ∣ s.maxUs.toNat - s.minUs.toNat) :
    fractionAt s (pulseWidthAt s c whole) whole = c := by
  have order : s.minUs.toNat < s.maxUs.toNat := h
  rw [fractionAt_of_mem whole minUs_le_pulseWidthAt (pulseWidthAt_le h hw hc), pulseWidthAt, Nat.add_sub_cancel_left,
    Nat.div_mul_cancel (hd.mul_right c), Nat.mul_div_cancel_left _ (by omega)]

/-- A pulse width within the bounds, to a fraction and back, never grows (R161, R173 (c)). -/
theorem pulseWidthAt_fractionAt_le {s : State} {us whole : Nat} (h1 : s.minUs.toNat ≤ us)
    (h2 : us ≤ s.maxUs.toNat) : pulseWidthAt s (fractionAt s us whole) whole ≤ us := by
  have back : (s.maxUs.toNat - s.minUs.toNat) * ((us - s.minUs.toNat) * whole / (s.maxUs.toNat - s.minUs.toNat)) / whole
      ≤ us - s.minUs.toNat := by
    refine Nat.div_le_of_le_mul ?_
    rw [Nat.mul_comm whole]
    exact Nat.mul_div_le _ _
  rw [fractionAt_of_mem whole h1 h2, pulseWidthAt]
  omega

/-- A pulse width, to a duty and back, never grows (R161, R179 (b)). -/
theorem dutyOf_mul_period_le (s : State) (us : Nat) : dutyOf s us * s.cfg.periodUs / 8191 ≤ us := by
  refine Nat.div_le_of_le_mul ?_
  rw [Nat.mul_comm 8191]
  exact Nat.div_mul_le_self _ _

/-- Settles O53: the percentage of the pulse width of a percentage. -/
theorem percentThereAndBack : Obligations.PercentThereAndBack := by
  intro p s hp hb h hinv
  have there := exec_pct2pw_of_valid (BitVec.ofNat 16 p) hb h
  rw [toInt_ofNat16 (by omega), clampTo_natCast hp] at there
  have fits : pulseWidthAt s p 100 ≤ 65535 := pulseWidthAt_le_16 h (by decide) hp
  have back := exec_pw2pct_of_valid (s := s.respond ⟨.ok, BitVec.ofNat 32 (pulseWidthAt s p 100)⟩)
    (BitVec.ofNat 16 (pulseWidthAt s p 100)) hb h
  rw [toNat_ofNat16 fits, fractionAt_respond] at back
  have operand : (Operand.num p).signed16 (lastData s.responses) = some (BitVec.ofNat 16 p) := by
    rw [signed16_num (by omega) (by omega), enc_natCast]
  have run := (runTrace_ok (stop := true) _ (assemble_pct2pw operand) rfl there).trans
    (runTrace_ok [] (assemble_pw2pct (unsigned16_last_ofNat fits)) hinv back)
  refine ⟨_, _, run, lastData_respond_ok _ _, ?_, fun hundreds => ?_⟩
  · rw [toNat_fractionAt _ h (by decide)]
    exact fractionAt_pulseWidthAt_le h (by decide) hp
  · rw [toNat_fractionAt _ h (by decide)]
    exact fractionAt_pulseWidthAt_of_dvd h (by decide) hp (Nat.dvd_of_mod_eq_zero hundreds)

/-- Settles O54: the pulse width of the percentage of a pulse width. -/
theorem pulseWidthThereAndBackByPercent : Obligations.PulseWidthThereAndBackByPercent := by
  intro us s hb h hinv h1 h2
  have small : fractionAt s us.toNat 100 ≤ 100 := fractionAt_le 100 h
  have back := exec_pct2pw_of_valid (s := s.respond ⟨.ok, BitVec.ofNat 32 (fractionAt s us.toNat 100)⟩)
    (BitVec.ofNat 16 (fractionAt s us.toNat 100)) hb h
  rw [toInt_ofNat16 (by omega), clampTo_natCast small, pulseWidthAt_respond] at back
  have run := (runTrace_ok (stop := true) _ (assemble_pw2pct (unsigned16_toNat us _)) hinv
      (exec_pw2pct_of_valid us hb h)).trans
    (runTrace_ok [] (assemble_pct2pw (signed16_last_ofNat (by omega))) rfl back)
  refine ⟨_, _, run, lastData_respond_ok _ _, ?_⟩
  rw [toNat_pulseWidthAt h (by decide) small]
  exact pulseWidthAt_fractionAt_le h1 h2

/-- Settles O55: the pulse width of the duty of a pulse width. -/
theorem pulseWidthThereAndBackByDuty : Obligations.PulseWidthThereAndBackByDuty := by
  intro us s hus hinv
  have data := toNat_dutyOf s (Nat.le_of_lt_succ us.isLt)
  have shorter := dutyOf_mul_period_le s us.toNat
  have back := exec_duty2pw_of_le (s.respond ⟨.ok, BitVec.ofNat 32 (dutyOf s us.toNat)⟩)
    (duty := BitVec.ofNat 32 (dutyOf s us.toNat)) (by rw [data]; exact dutyOf_le_of_le_period hus)
  rw [data, State.respond_cfg, Config.dutyMax_eq] at back
  have run := (runTrace_ok (stop := true) _ (assemble_pw2duty (unsigned16_toNat us _)) rfl (exec_pw2duty_eq us s)).trans
    (runTrace_ok [] (assemble_duty2pw_last _) hinv back)
  refine ⟨_, _, run, lastData_respond_ok _ _, ?_⟩
  have := us.isLt
  exact (toNat_ofNat32 (by omega)).trans_le shorter

/-! ### Commanding a duty -/

/-- The duty is commanded and nothing else of the record changes (R160). -/
def DutyCommanded (s t : State) (duty : Nat) : Prop :=
  t.cfg = s.cfg ∧ t.presented = s.presented ∧ t.dutyOut.toNat = duty ∧ ∀ f : Fld, f ≠ .dutyOut → t.fld f = s.fld f

/-- A response before it is no part of what a sequence commands. -/
theorem DutyCommanded.of_respond {s t : State} {duty : Nat} {r : Response} (h : DutyCommanded (s.respond r) t duty) :
    DutyCommanded s t duty := by
  obtain ⟨cfg, presented, dutyOut, frame⟩ := h
  exact ⟨cfg, presented, dutyOut, fun f hf => (frame f hf).trans (sameRecord_respond s r f)⟩

/-- The two commands of `SETPW`, with which `SETPCT` and `SETANG` end too: a duty that fits is written. -/
theorem runTrace_setpw_of_le {o : Operand} {s : State} {us : Word16}
    (ho : o.unsigned16 (lastData s.responses) = some us) (h : dutyOf s us.toNat ≤ 8191) :
    ∃ t, runTrace true [.cmd (.pw2duty o), .cmd (.wrduty .last)] s = .done t ∧
      DutyCommanded s t (dutyOf s us.toNat) := by
  have data := toNat_dutyOf s (Nat.le_of_lt_succ us.isLt)
  have write := exec_wrduty_of_le (s.respond ⟨.ok, BitVec.ofNat 32 (dutyOf s us.toNat)⟩)
    (duty := BitVec.ofNat 32 (dutyOf s us.toNat)) (by rw [data]; exact h)
  have run := (runTrace_ok (stop := true) _ (assemble_pw2duty ho) rfl (exec_pw2duty_eq us s)).trans
    (runTrace_ok [] (assemble_wrduty_last _) rfl write)
  refine ⟨_, run, rfl, rfl, ?_, fun f hf => ?_⟩
  · rw [State.respond_dutyOut, State.setDuty_dutyOut, BitVec.toNat_setWidth, data]
    exact Nat.mod_eq_of_lt (by rw [Config.dutyBits]; omega)
  · cases f with
    | dutyOut => exact absurd rfl hf
    | _ => rfl

/-- A duty that does not fit is refused by the second command of `SETPW`, which ends the run. -/
theorem runTrace_setpw_of_gt {o : Operand} {s : State} {us : Word16}
    (ho : o.unsigned16 (lastData s.responses) = some us) (h : 8191 < dutyOf s us.toNat) :
    runTrace true [.cmd (.pw2duty o), .cmd (.wrduty .last)] s =
      .stopped ((s.respond ⟨.ok, BitVec.ofNat 32 (dutyOf s us.toNat)⟩).respond ⟨.err .dutyRange, 0⟩) := by
  have refuse := exec_wrduty_of_gt (s.respond ⟨.ok, BitVec.ofNat 32 (dutyOf s us.toNat)⟩)
    (duty := BitVec.ofNat 32 (dutyOf s us.toNat)) (by rw [toNat_dutyOf s (Nat.le_of_lt_succ us.isLt)]; exact h)
  exact (runTrace_ok _ (assemble_pw2duty ho) rfl (exec_pw2duty_eq us s)).trans
    (runTrace_error [] (assemble_wrduty_last _) ((step_present_encode rfl).trans refuse))

/-- A command that answers with a pulse width, before the two commands of `SETPW`: the duty of that width is written. -/
theorem runTrace_convert_setpw {c : CommandLine} {i : Instr} {s : State} {us : Nat}
    (ha : c.assemble (lastData s.responses) = some i) (hw : i.wellFormed s.cfg = true)
    (hx : exec i s = .next (s.respond ⟨.ok, BitVec.ofNat 32 us⟩)) (hus : us ≤ 65535) (h : dutyOf s us ≤ 8191) :
    ∃ t, runTrace true [.cmd c, .cmd (.pw2duty .last), .cmd (.wrduty .last)] s = .done t ∧
      DutyCommanded s t (dutyOf s us) := by
  have width : (BitVec.ofNat 16 us).toNat = us := toNat_ofNat16 hus
  obtain ⟨t, run, commanded⟩ := runTrace_setpw_of_le (s := s.respond ⟨.ok, BitVec.ofNat 32 us⟩)
    (unsigned16_last_ofNat hus) (by rw [width]; exact h)
  rw [width] at commanded
  exact ⟨t, (runTrace_ok _ ha hw hx).trans run, commanded.of_respond⟩

/-- Settles O58: within the period the duty fits. -/
theorem setpwWithinThePeriod : Obligations.SetpwWithinThePeriod := by
  intro us s h
  obtain ⟨t, run, -, -, duty, frame⟩ := runTrace_setpw_of_le (unsigned16_toNat us _) (dutyOf_le_of_le_period (s := s) h)
  exact ⟨t, run, duty, frame⟩

/-- Settles O56: `PCT2PW` before the commands of `SETPW`. -/
theorem setpctCommandsThePercentage : Obligations.SetpctCommandsThePercentage := by
  intro p s h0 h1 hb h us duty hduty
  have convert := exec_pct2pw_of_valid (enc 16 p) hb h
  rw [toInt_enc16 h0 h1] at convert
  exact runTrace_convert_setpw (assemble_pct2pw (signed16_num h0 h1 _)) rfl convert
    (pulseWidthAt_le_16 h (by decide) (clampTo_le 100 p)) hduty

/-- Settles O57: `ANG2PW` before the commands of `SETPW`. -/
theorem setangCommandsTheAngle : Obligations.SetangCommandsTheAngle := by
  intro angle angleMax s h0 h1 hpos hle hangle hb h us duty hduty
  have largest : (BitVec.ofNat 16 angleMax).toNat = angleMax := toNat_ofNat16 hle
  have nonzero : BitVec.ofNat 16 angleMax ≠ 0 := fun hz => by
    rw [hz] at largest
    exact hpos.ne largest
  have convert := exec_ang2pw_of_valid (enc 16 angle) nonzero hb h
  rw [toInt_enc16 h0 h1, largest] at convert
  exact runTrace_convert_setpw (assemble_ang2pw (signed16_num h0 h1 _) (unsigned16_natCast hle _)) hangle convert
    (pulseWidthAt_le_16 h hpos (clampTo_le angleMax angle)) hduty

/-! ### The boot sequence -/

/-- Settles O60: line by line; the last two clear what the two events counted and flagged. -/
theorem bootSynchronises : Obligations.BootSynchronises := by
  intro lo hi a b sw s h
  have run := (runTrace_event (stop := true) (l := .reset) _ rfl rfl rfl (exec_reset s)).trans <|
    (runTrace_ok _ (assemble_setbounds (unsigned16_toNat lo _) (unsigned16_toNat hi _)) rfl
      (exec_setbounds_of_lt _ h)).trans <|
    (runTrace_event (l := .edge a b) _ rfl rfl rfl (exec_edge a b _)).trans <|
    (runTrace_event (l := .btn sw) _ rfl rfl rfl (exec_btn sw _)).trans <|
    (runTrace_ok (c := .ack) _ rfl rfl (exec_ack _)).trans (runTrace_ok (c := .take) [] rfl rfl (exec_take _))
  exact ⟨_, run, rfl, rfl, rfl, rfl, rfl, rfl, rfl, rfl, rfl, rfl⟩

end Sys2Proof.Machine

/-!
Pseudo-operations that stop (R84, R191, R193). A command of the consumer ends in an error, which changes nothing but the
responses, or with OK; until the last command of a pseudo-operation only the `SETBOUNDS` of `REBOUND` writes anything.
-/

namespace Sys2Proof.Machine

/-! ### The two ways of a command -/

/-- A consumer's line stands for an operation of the consumer. -/
theorem agent_of_assemble {c : CommandLine} {last : Option Word32} {i : Instr} (h : c.assemble last = some i) :
    i.agent = .consumer := by
  cases c with
  | haspending => cases h; rfl
  | take => cases h; rfl
  | ispressed => cases h; rfl
  | ack => cases h; rfl
  | ang2pw angle angleMax =>
    obtain ⟨x, -, hx⟩ := Option.bind_eq_some_iff.mp h
    obtain ⟨y, -, rfl⟩ := Option.map_eq_some_iff.mp hx
    rfl
  | setbounds minUs maxUs =>
    obtain ⟨x, -, hx⟩ := Option.bind_eq_some_iff.mp h
    obtain ⟨y, -, rfl⟩ := Option.map_eq_some_iff.mp hx
    rfl
  | pw2ang us angleMax =>
    obtain ⟨x, -, hx⟩ := Option.bind_eq_some_iff.mp h
    obtain ⟨y, -, rfl⟩ := Option.map_eq_some_iff.mp hx
    rfl
  | _ =>
    obtain ⟨x, -, rfl⟩ := Option.map_eq_some_iff.mp h
    rfl

/-- The step of a command just presented: an error with data 0 and no update, reserved words among them, or the update
of the command and OK. -/
theorem step_present_command {i : Instr} (hi : i.agent = .consumer) (s : State) :
    (∃ e, step (s.present (encode i)) = .next (s.respond ⟨.err e, 0⟩)) ∨
    ∃ d, exec i s = .next ((updateOf i s).respond ⟨.ok, d⟩) ∧ i.wellFormed s.cfg = true := by
  by_cases hw : i.wellFormed s.cfg = true
  · obtain ⟨⟨st, d⟩, hr⟩ := responsesOf_of_consumer hi s
    have run : exec i s = .next ((updateOf i s).respond ⟨st, d⟩) := by rw [exec_eq, hr]; rfl
    cases st with
    | ok => exact .inr ⟨d, run, hw⟩
    | err e =>
      obtain ⟨rfl, update⟩ := updateOf_of_error hr nofun
      exact .inl ⟨e, by rw [step_present_encode hw, run, update]⟩
  · obtain ⟨why, hd⟩ := decode_encode_of_absent hw
    exact .inl ⟨.reserved, by rw [step_present, hd]; rfl⟩

/-- A run of commands that stops: its first command ended in an error, or it was answered with OK and the rest
stopped. -/
theorem runTrace_stopped_cases {c : CommandLine} {ls : List TraceLine} {s t : State}
    (h : runTrace true (.cmd c :: ls) s = .stopped t) :
    ∃ i, c.assemble (lastData s.responses) = some i ∧
      ((∃ e, t = s.respond ⟨.err e, 0⟩) ∨
        ∃ d, exec i s = .next ((updateOf i s).respond ⟨.ok, d⟩) ∧
          runTrace true ls ((updateOf i s).respond ⟨.ok, d⟩) = .stopped t) := by
  cases ha : c.assemble (lastData s.responses) with
  | none =>
    rw [runTrace_cons_of_none (l := .cmd c) ls ha] at h
    cases h
  | some i =>
    refine ⟨i, rfl, ?_⟩
    obtain ⟨e, hs⟩ | ⟨d, hx, hw⟩ := step_present_command (agent_of_assemble ha) s
    · rw [runTrace_error ls ha hs] at h
      exact .inl ⟨e, (TraceEnd.stopped.inj h).symm⟩
    · rw [runTrace_ok ls ha hw hx] at h
      exact .inr ⟨d, hx, h⟩

/-! ### Commands that only answer -/

/-- Whatever its operands, the command writes nothing. -/
def CommandLine.OnlyAnswers (c : CommandLine) : Prop :=
  ∀ (last : Option Word32) (i : Instr), c.assemble last = some i → ∀ s, updateOf i s = s

theorem onlyAnswers_pw2duty (us : Operand) : (CommandLine.pw2duty us).OnlyAnswers := by
  intro last i h s
  obtain ⟨x, -, rfl⟩ := Option.map_eq_some_iff.mp h
  rfl

theorem onlyAnswers_pct2pw (p : Operand) : (CommandLine.pct2pw p).OnlyAnswers := by
  intro last i h s
  obtain ⟨x, -, rfl⟩ := Option.map_eq_some_iff.mp h
  rfl

theorem onlyAnswers_ang2pw (angle angleMax : Operand) : (CommandLine.ang2pw angle angleMax).OnlyAnswers := by
  intro last i h s
  obtain ⟨x, -, hx⟩ := Option.bind_eq_some_iff.mp h
  obtain ⟨y, -, rfl⟩ := Option.map_eq_some_iff.mp hx
  rfl

theorem forall_ok_append_ok {oks : List Response} (h : ∀ r ∈ oks, r.st = .ok) (d : Word32) :
    ∀ r ∈ oks ++ [⟨.ok, d⟩], r.st = .ok :=
  List.forall_mem_append.mpr ⟨h, List.forall_mem_singleton.mpr rfl⟩

/-- The run has changed nothing from `s` to `t` but sent OK responses, fewer than `n`, and then one error. -/
def StoppedInAnswers (n : Nat) (s t : State) : Prop :=
  ∃ (e : Err) (oks : List Response),
    t = s.send (⟨.err e, 0⟩ :: oks) ∧ (∀ r ∈ oks, r.st = .ok) ∧ oks.length < n

/-- Where the commands before the last only answer, a run that stops has changed nothing but the responses: the last
command runs into its error, or is not reached. -/
theorem runTrace_stopped_of_onlyAnswers {cs : List CommandLine} (hcs : ∀ c ∈ cs.dropLast, c.OnlyAnswers) {s t : State}
    (h : runTrace true (cs.map .cmd) s = .stopped t) : StoppedInAnswers cs.length s t := by
  induction cs generalizing s with
  | nil => cases h
  | cons c cs ih =>
    obtain ⟨i, ha, ⟨e, rfl⟩ | ⟨d, -, rest⟩⟩ := runTrace_stopped_cases h
    · exact ⟨e, [], rfl, nofun, Nat.succ_pos _⟩
    · cases cs with
      | nil => cases rest
      | cons c' cs =>
        obtain ⟨hc, hrest⟩ := List.forall_mem_cons.mp hcs
        rw [hc _ i ha s] at rest
        obtain ⟨e, oks, rfl, hoks, hlen⟩ := ih hrest rest
        refine ⟨e, oks ++ [⟨.ok, d⟩], ?_, ?_, ?_⟩
        · simp [State.send, State.respond]
        · exact forall_ok_append_ok hoks d
        · rw [List.length_append, List.length_singleton, List.length_cons]
          exact Nat.succ_lt_succ hlen

/-! ### Pseudo-operations -/

/-- What R84 and R191 say of a pseudo-operation whose run from `s` stopped in `t`. -/
def StoppedAtFirstError (p : Pseudo) (s t : State) : Prop :=
  ∃ (e : Err) (oks : List Response),
    t.responses = ⟨.err e, 0⟩ :: (oks ++ s.responses) ∧ (∀ r ∈ oks, r.st = .ok) ∧ oks.length < p.expand.length ∧
    t.cfg = s.cfg ∧ t.presented = s.presented ∧
    p ≠ .drain ∧
    ((∃ us : Operand, p = .setpw us) ∨ (∃ x : Operand, p = .setpct x) ∨ (∃ x y : Operand, p = .setang x y) →
      SameRecord t s) ∧
    (∀ minUs maxUs x : Operand, p = .rebound minUs maxUs x →
      (oks = [] → SameRecord t s) ∧
      (oks ≠ [] → ∃ lo hi : BitVec 16,
        minUs.unsigned16 (lastData s.responses) = some lo ∧ maxUs.unsigned16 (lastData s.responses) = some hi ∧
        lo < hi ∧ SameRecord t { s with minUs := lo, maxUs := hi, boundsValid := true }))

/-- `SETPW`, `SETPCT` and `SETANG` write with their last command alone. -/
theorem stoppedAtFirstError_of_onlyAnswers {p : Pseudo} (hp : ∀ c ∈ p.expand.dropLast, c.OnlyAnswers)
    (hdrain : p ≠ .drain) (hrebound : ∀ minUs maxUs x, p ≠ .rebound minUs maxUs x) {s t : State}
    (h : runPseudo p s = .stopped t) : StoppedAtFirstError p s t := by
  obtain ⟨e, oks, rfl, hoks, hlen⟩ := runTrace_stopped_of_onlyAnswers hp h
  exact ⟨e, oks, rfl, hoks, hlen, rfl, rfl, hdrain, fun _ => fld_send s _,
    fun minUs maxUs x hr => absurd hr (hrebound minUs maxUs x)⟩

/-- Both commands of `DRAIN` succeed from every state. -/
theorem runPseudo_drain (s : State) : ∃ t, runPseudo .drain s = .done t :=
  ⟨_, (runTrace_ok (stop := true) (c := .ack) _ rfl rfl (exec_ack s)).trans
    (runTrace_ok (c := .take) [] rfl rfl (exec_take _))⟩

/-- `SETBOUNDS` as a line that is answered with OK: its operands have values in order, which it writes. -/
theorem setbounds_of_ok {o1 o2 : Operand} {last : Option Word32} {i : Instr} {s t : State} {d : Word32}
    (ha : (CommandLine.setbounds o1 o2).assemble last = some i) (hx : exec i s = .next (t.respond ⟨.ok, d⟩)) :
    ∃ lo hi, o1.unsigned16 last = some lo ∧ o2.unsigned16 last = some hi ∧ lo < hi ∧
      updateOf i s = s.setBounds lo hi := by
  obtain ⟨lo, hlo, hmap⟩ := Option.bind_eq_some_iff.mp ha
  obtain ⟨hi, hhi, rfl⟩ := Option.map_eq_some_iff.mp hmap
  refine ⟨lo, hi, hlo, hhi, ?_⟩
  by_cases order : lo < hi
  · exact ⟨order, if_pos order⟩
  · rw [exec_setbounds_of_ge s (BitVec.not_lt.mp order), Host.Outcome.next.injEq] at hx
    have sent := congrArg State.responses hx
    rw [State.respond_responses, State.respond_responses, List.cons.injEq] at sent
    cases sent.1

/-- `REBOUND` writes the bounds with its first command and nothing more before its last. -/
theorem rebound_stoppedAtFirstError {minUs maxUs p : Operand} {s t : State}
    (h : runPseudo (.rebound minUs maxUs p) s = .stopped t) : StoppedAtFirstError (.rebound minUs maxUs p) s t := by
  obtain ⟨i, ha, ⟨e, rfl⟩ | ⟨d, hx, rest⟩⟩ := runTrace_stopped_cases h
  · refine ⟨e, [], rfl, nofun, Nat.succ_pos _, rfl, rfl, nofun, fun _ => sameRecord_respond s _, ?_⟩
    exact fun _ _ _ _ => ⟨fun _ => sameRecord_respond s _, fun hne => absurd rfl hne⟩
  · obtain ⟨lo, hi, hlo, hhi, order, update⟩ := setbounds_of_ok ha hx
    have answers : ∀ c ∈ [CommandLine.pct2pw p, .pw2duty .last], c.OnlyAnswers := by
      simp [onlyAnswers_pct2pw, onlyAnswers_pw2duty]
    rw [update] at rest
    obtain ⟨e, oks, rfl, hoks, hlen⟩ :=
      runTrace_stopped_of_onlyAnswers (cs := [.pct2pw p, .pw2duty .last, .wrduty .last]) answers rest
    refine ⟨e, oks ++ [⟨.ok, d⟩], ?_, ?_, ?_, rfl, rfl, nofun, ?_, ?_⟩
    · simp [State.send]
    · exact forall_ok_append_ok hoks d
    · rw [List.length_append, List.length_singleton]
      exact Nat.succ_lt_succ hlen
    · rintro (⟨_, h⟩ | ⟨_, h⟩ | ⟨_, _, h⟩) <;> cases h
    · rintro _ _ _ ⟨⟩
      refine ⟨fun hnil => by simp at hnil, fun _ => ⟨lo, hi, hlo, hhi, order, fun f => ?_⟩⟩
      exact (fld_send _ _ f).trans (sameRecord_respond (s.setBounds lo hi) _ f)

/-- Every pseudo-operation, by the commands that it stands for. -/
theorem runPseudo_stoppedAtFirstError {p : Pseudo} {s t : State} (h : runPseudo p s = .stopped t) :
    StoppedAtFirstError p s t := by
  cases p with
  | drain =>
    obtain ⟨u, hu⟩ := runPseudo_drain s
    cases hu.symm.trans h
  | setpw us =>
    refine stoppedAtFirstError_of_onlyAnswers (p := .setpw us) ?_ nofun nofun h
    simp [Pseudo.expand, onlyAnswers_pw2duty]
  | setpct p =>
    refine stoppedAtFirstError_of_onlyAnswers (p := .setpct p) ?_ nofun nofun h
    simp [Pseudo.expand, onlyAnswers_pct2pw, onlyAnswers_pw2duty]
  | setang angle angleMax =>
    refine stoppedAtFirstError_of_onlyAnswers (p := .setang angle angleMax) ?_ nofun nofun h
    simp [Pseudo.expand, onlyAnswers_ang2pw, onlyAnswers_pw2duty]
  | rebound minUs maxUs p => exact rebound_stoppedAtFirstError h

/-- Settles O59: the general clause, and the four cases in which the place of the error is known. -/
theorem pseudoStopsAtTheFirstError : Obligations.PseudoStopsAtTheFirstError := by
  refine ⟨fun p s t => runPseudo_stoppedAtFirstError, fun p s h0 h1 hb => ?_, fun angle s h0 h1 hangle => ?_,
    fun lo hi p s h => ?_, fun us s h => ?_⟩
  · have refuse : exec (.pct2pw (enc 16 p)) s = .next (s.respond ⟨.err .noBounds, 0⟩) := withBounds_of_invalid _ hb
    exact runTrace_error _ (assemble_pct2pw (signed16_num h0 h1 _)) ((step_present_encode rfl).trans refuse)
  · have refuse := exec_ang2pw_of_zero (angleMax := 0) (enc 16 angle) s rfl
    exact runTrace_error _ (assemble_ang2pw (signed16_num h0 h1 _) (unsigned16_natCast (n := 0) (by decide) _))
      ((step_present_encode (i := .ang2pw (enc 16 angle) 0) hangle).trans refuse)
  · exact runTrace_error _ (assemble_setbounds (unsigned16_toNat lo _) (unsigned16_toNat hi _))
      ((step_present_encode rfl).trans (exec_setbounds_of_ge s h))
  · have run := runTrace_setpw_of_gt (unsigned16_toNat us _) h
    exact ⟨_, run, fun f => (sameRecord_respond _ _ f).trans (sameRecord_respond s _ f), rfl⟩

end Sys2Proof.Machine
